-- ==== Sys2Proof/Word.lean ====
section
/-!
DEFINITION. The two word types of the engine and the two fixed-size byte sequences its rules speak of.

A register holds a `Word` (32 bits, spec 00 R10). A *schedule word* is a sequence of four bytes and NOT a
32-bit integer (R10, R68), so it is a structure of four bytes. A 16-byte block is laid out column-major
(R75), so it is a structure of four columns, each a sequence of four bytes.
-/

namespace Sys2Proof

/-- An unsigned 8-bit value (R10). -/
abbrev Byte := BitVec 8

/-- The 32-bit contents of one register, or one command word (R10, R15, R47). -/
abbrev Word := BitVec 32

/-- A schedule word: four bytes in order, byte 0 first (R68). One column of a block has the same form. -/
structure SWord where
  b0 : Byte
  b1 : Byte
  b2 : Byte
  b3 : Byte
  deriving DecidableEq, Repr, Inhabited

/-- A 16-byte block, column-major: column `c` holds bytes `4c .. 4c+3`, top to bottom (R75). -/
structure Block where
  c0 : SWord
  c1 : SWord
  c2 : SWord
  c3 : SWord
  deriving DecidableEq, Repr, Inhabited

/-- Text as the source's calls see it: the sequence of its character codes (R105, R106). A code is any
natural number, so that a code above 255 can be given and refused (R128). -/
abbrev Text := List Nat

end Sys2Proof
end

