-- ==== Sys2Proof/Machine/State.lean ====
section
/-!
DEFINITION. The state of the machine, plain data. The engine's state is exactly that of R13: the host-visible
registers (R15), the key schedule SCHED with the round count NRI (R29) and the pending-command latch PEND (R30).
Beside it stand the fields of the model's own environment: the reset input, the interval count that realises the
OPEN parameter LATENCY, the counter of free values, the host's accesses still to come and what the host has read.
The engine has no program counter and no memory of its own (R14, R33).
-/

namespace Sys2Proof.Machine

/-- The registers of the window by name (R15). -/
inductive Reg where
  | cmd
  | status
  | ctrLo
  | ctrHi
  | nonceLo
  | nonceHi
  | key (j : Fin 8)
  | din (j : Fin 4)
  | dout (j : Fin 4)
  /-- A reserved offset, 0x18, 0x1C or 0x60..0x7C: reads 0, writes ignored (R38). -/
  | reserved
  deriving DecidableEq, Repr

/-- The result codes of a performed command; no other code is ever written (R118). -/
inductive ResultCode where
  | ok
  | errBits
  | errNoKey
  | errLen
  | errOp
  deriving DecidableEq, Repr

/-- One thing the outside world does to the block in one host-observable interval. -/
inductive Event where
  /-- A host read of `bytes` bytes at byte offset `off` of the window (R37, R39). -/
  | read (bytes : Nat) (off : BitVec 7)
  /-- A host write of `bytes` bytes at byte offset `off`; `v` is what a 32-bit write carries (R37, R39). -/
  | write (bytes : Nat) (off : BitVec 7) (v : Word)
  /-- The host's loop `L: RD STATUS -> s; if s[0] == 1 goto L` (R57): one read of STATUS an interval. -/
  | poll
  /-- The host makes no access in this interval. -/
  | idle
  /-- The platform asserts the block's reset input (R131). -/
  | resetOn
  /-- The platform releases the reset input. -/
  | resetOff
  deriving DecidableEq, Repr

/-- One value a host read has returned. -/
structure HostRead where
  off : BitVec 7
  value : Word
  deriving DecidableEq, Repr

/-- Why a step, or one of the two calls of R101, ends in a fault. -/
inductive Fault where
  /-- Raised by `step` when the host makes an access that is not a 32-bit access at a multiple of 4. The
  access has no effect on the engine, and no claim holds of a run that contains one (R37, R126). Safe: the
  spec itself makes it a fault. -/
  | busError (off : BitVec 7)
  /-- Raised by the call `decrypt` for a ciphertext that is not well-formed; the source calls its behaviour
  undefined (R113, R127). Safe: the call gets no value. -/
  | malformedCiphertext (c : Text)
  deriving DecidableEq, Repr

/-- Why a step, or one of the two calls of R101, has no meaning. -/
inductive Refusal where
  /-- A command whose meaning is not written yet; no arm of this model answers so. Safe. -/
  | notModelled (mnemonic : String)
  /-- Raised by the calls `encrypt` and `decrypt` for a key text that is too short or for a character code
  above 255, to which the source gives no byte (R105, R106, R128). Safe: the call gets no value. -/
  | invalidText
  deriving DecidableEq, Repr

structure State where
  /-- STATUS.BUSY: a command is accepted and not yet performed (R18). -/
  busy : Bool
  /-- STATUS.KEYVALID: SCHED holds a complete expansion (R19). -/
  keyValid : Bool
  /-- STATUS.OVR: sticky, a host write was dropped while BUSY was 1 (R20). -/
  ovr : Bool
  /-- STATUS.ERR: the result code of the last performed command (R21). -/
  err : ResultCode
  /-- STATUS.OUTLEN: how many leading bytes of DOUT hold a result (R23). -/
  outLen : BitVec 5
  /-- CTR_LO (R24). -/
  ctrLo : Word
  /-- CTR_HI (R24). -/
  ctrHi : Word
  /-- NONCE_LO (R25). -/
  nonceLo : Word
  /-- NONCE_HI (R25). -/
  nonceHi : Word
  /-- KEY0..KEY7 (R26). -/
  key : Vector Word 8
  /-- DIN0..DIN3 (R27). -/
  din : Vector Word 4
  /-- DOUT0..DOUT3 (R28). -/
  dout : Vector Word 4
  /-- SCHED[0..59] (R29). -/
  sched : Vector SWord 60
  /-- NRI, read as STATUS.NR (R22, R29). -/
  nri : BitVec 4
  /-- PEND: the accepted command word, meaningful only while BUSY is 1 (R30). What it holds while BUSY is 0, after
  reset or after a perform step, is the model's own (DESIGN CHOICE, log 5). -/
  pend : Word
  /-- The block's reset input is asserted (R131, R132). -/
  rst : Bool
  /-- The model's own: intervals still to pass before the pending command's perform step (log 2). -/
  wait : Nat
  /-- The model's own: how many free values have been drawn (logs 1 and 2). -/
  draws : Nat
  /-- The model's own: what the outside world does from here on, next first (log 4). -/
  script : List Event
  /-- The model's own: what the host has read so far, oldest first; the observation of R142 (log 4). -/
  reads : List HostRead
  deriving DecidableEq, Repr

/-- The machine right after reset (R131). PEND is discarded, which leaves a word that nothing reads (log 5). The
reset input is released, and the fields of the model's own are empty (log 6). -/
def State.reset : State where
  busy := false
  keyValid := false
  ovr := false
  err := .ok
  outLen := 0
  ctrLo := 0
  ctrHi := 0
  nonceLo := 0
  nonceHi := 0
  key := Vector.replicate 8 0
  din := Vector.replicate 4 0
  dout := Vector.replicate 4 0
  sched := Vector.replicate 60 default
  nri := 0
  pend := 0
  rst := false
  wait := 0
  draws := 0
  script := []
  reads := []

end Sys2Proof.Machine
end

