-- ==== Sys2Proof/Config.lean ====
section
/-!
DEFINITION. What the platform fixes and the spec leaves open: the OPEN parameters BASE and LATENCY (R8, R34,
R138) and the input port `time_ms` (R94). Each is an opaque constant with no body, so that no proof can know a
value of it and every statement holds for all values. A fresh value is drawn by applying the constant to the
counter `draws` of State, or to the whole state that holds it.
-/

namespace Sys2Proof

/-- What the input port `time_ms` shows at draw number `n`: any 64-bit value the platform supplies
(R94; 93_implementation_defined.md U7; assumption log 1). -/
opaque Config.timeMs : Nat → BitVec 64

/-- How many host-observable intervals pass between the step that accepts a command and its perform step,
beyond the one that R138 always grants: LATENCY of the command word `w` accepted in state `s` is
`Config.latency w s + 1`. It is applied to the word and to the whole state, the draw counter within it, because
LATENCY may depend on the command, the key length and the data, and no claim about time may follow from this model
(R8, R138, R139; assumption log 2). -/
opaque Config.latency : Word → Machine.State → Nat

/-- BASE in units of the window's size. -/
opaque Config.basePage : Nat

/-- BASE, the host address of the window: any multiple of 0x80 (R8, R34; assumption log 3). -/
def Config.base : Nat := 0x80 * Config.basePage

end Sys2Proof
end

