-- ==== Sys2Proof/Syntax.lean ====
section
/-!
DEFINITION. The commands of the engine: one constructor for each row of spec/opcode_table.json. The engine has
no instruction set of its own; its instructions are the 32-bit words a host writes to CMD (R2, R47).
-/

namespace Sys2Proof

/-- A command with every field of its word (R47): `len` is word[8:4], `rsvd` is word[15:9], `bits` is
word[31:16]. A command carries the fields it ignores as well (R51, R54), so that a command stands for exactly
one word; Machine/Dispatch.lean hands to each meaning only the fields its rule reads. A reserved command keeps
its OP, word[3:0] (R53). -/
inductive Instr where
  /-- OP 0x0 (R100). -/
  | nop (len : BitVec 5) (rsvd : BitVec 7) (bits : BitVec 16)
  /-- OP 0x1 (R72); reads BITS. -/
  | keyexp (len : BitVec 5) (rsvd : BitVec 7) (bits : BitVec 16)
  /-- OP 0x2 (R89); reads BITS. -/
  | keyderive (len : BitVec 5) (rsvd : BitVec 7) (bits : BitVec 16)
  /-- OP 0x3 (R82). -/
  | encblk (len : BitVec 5) (rsvd : BitVec 7) (bits : BitVec 16)
  /-- OP 0x4 (R94). -/
  | ctrseed (len : BitVec 5) (rsvd : BitVec 7) (bits : BitVec 16)
  /-- OP 0x5 (R95); reads LEN. -/
  | xorchunk (len : BitVec 5) (rsvd : BitVec 7) (bits : BitVec 16)
  /-- OP 0x6 and 0x7, reserved (R53). -/
  | reservedOp6to7 (op : BitVec 4) (len : BitVec 5) (rsvd : BitVec 7) (bits : BitVec 16)
  /-- OP 0x8 to 0xF, reserved (R53). -/
  | reservedOp8to15 (op : BitVec 4) (len : BitVec 5) (rsvd : BitVec 7) (bits : BitVec 16)
  deriving DecidableEq, Repr

end Sys2Proof
end

