-- ==== Sys2Proof/WellFormed.lean ====
section
/-!
DEFINITION. Which terms of `Instr` stand for a command word. The fields' widths leave two checks: a reserved
command's OP lies in its row of the opcode table (R52, R53).
-/

namespace Sys2Proof

/-- The term is the reading of some command word: the OP of a reserved command is one its row matches. -/
def wellFormed : Instr → Bool
  | .nop _ _ _ => true
  | .keyexp _ _ _ => true
  | .keyderive _ _ _ => true
  | .encblk _ _ _ => true
  | .ctrseed _ _ _ => true
  | .xorchunk _ _ _ => true
  | .reservedOp6to7 op _ _ _ => op = 0x6#4 || op = 0x7#4
  | .reservedOp8to15 op _ _ _ => op.getLsbD 3

/-- `wellFormed` as a proposition. -/
abbrev WellFormed (i : Instr) : Prop := wellFormed i = true

end Sys2Proof
end

