-- ==== Sys2Proof/Decode.lean ====
section
/-!
DEFINITION. The command word: its fields, the decoder and the encoder (spec 30_encoding.md, R47 to R56).
Decoding a word is total (R55). A byte sequence that does not hold one whole word is rejected by name.
-/

namespace Sys2Proof

/-- OP = word[3:0] (R48). -/
def fieldOp (w : Word) : BitVec 4 := w.extractLsb' 0 4

/-- LEN = word[8:4] (R49). -/
def fieldLen (w : Word) : BitVec 5 := w.extractLsb' 4 5

/-- RSVD = word[15:9] (R51). -/
def fieldRsvd (w : Word) : BitVec 7 := w.extractLsb' 9 7

/-- BITS = word[31:16] (R50). -/
def fieldBits (w : Word) : BitVec 16 := w.extractLsb' 16 16

/-- The opcode map of R52 on the fields of a word. -/
def decodeFields (op : BitVec 4) (len : BitVec 5) (rsvd : BitVec 7) (bits : BitVec 16) : Instr :=
  match op.toNat with
  | 0 => .nop len rsvd bits
  | 1 => .keyexp len rsvd bits
  | 2 => .keyderive len rsvd bits
  | 3 => .encblk len rsvd bits
  | 4 => .ctrseed len rsvd bits
  | 5 => .xorchunk len rsvd bits
  | 6 => .reservedOp6to7 op len rsvd bits
  | 7 => .reservedOp6to7 op len rsvd bits
  | _ => .reservedOp8to15 op len rsvd bits

/-- The decoder of R55, total on every 32-bit word. -/
def decodeWord (w : Word) : Instr :=
  decodeFields (fieldOp w) (fieldLen w) (fieldRsvd w) (fieldBits w)

/-- The OP of a command (R52, R53). -/
def opcode : Instr → BitVec 4
  | .nop _ _ _ => 0x0
  | .keyexp _ _ _ => 0x1
  | .keyderive _ _ _ => 0x2
  | .encblk _ _ _ => 0x3
  | .ctrseed _ _ _ => 0x4
  | .xorchunk _ _ _ => 0x5
  | .reservedOp6to7 op _ _ _ => op
  | .reservedOp8to15 op _ _ _ => op

/-- The word with the given fields, in the places of R47. -/
def packFields (op : BitVec 4) (len : BitVec 5) (rsvd : BitVec 7) (bits : BitVec 16) : Word :=
  bits ++ rsvd ++ len ++ op

/-- The command word of a command: the fields in the places R47 gives them. -/
def encode (i : Instr) : Word :=
  match i with
  | .nop len rsvd bits => packFields (opcode i) len rsvd bits
  | .keyexp len rsvd bits => packFields (opcode i) len rsvd bits
  | .keyderive len rsvd bits => packFields (opcode i) len rsvd bits
  | .encblk len rsvd bits => packFields (opcode i) len rsvd bits
  | .ctrseed len rsvd bits => packFields (opcode i) len rsvd bits
  | .xorchunk len rsvd bits => packFields (opcode i) len rsvd bits
  | .reservedOp6to7 _ len rsvd bits => packFields (opcode i) len rsvd bits
  | .reservedOp8to15 _ len rsvd bits => packFields (opcode i) len rsvd bits

/-! The assembler's commands (R56): the fields a command does not use are written 0, and RSVD is 0. -/

/-- `NOP` (R56). -/
def asmNop : Instr := .nop 0 0 0

/-- `KEYEXP bits` (R56). -/
def asmKeyexp (bits : BitVec 16) : Instr := .keyexp 0 0 bits

/-- `KEYDERIVE bits` (R56). -/
def asmKeyderive (bits : BitVec 16) : Instr := .keyderive 0 0 bits

/-- `ENCBLK` (R56). -/
def asmEncblk : Instr := .encblk 0 0 0

/-- `CTRSEED` (R56). -/
def asmCtrseed : Instr := .ctrseed 0 0 0

/-- `XORCHUNK len` (R56). -/
def asmXorchunk (len : BitVec 5) : Instr := .xorchunk len 0 0

/-! A command word as a byte sequence. The register port moves whole words only (R37); a byte sequence is
read with the lanes of R35, byte `k` in bits 8k+7..8k. -/

/-- Why a byte sequence is not read as a command. -/
inductive DecodeReject where
  /-- The sequence ends before the four bytes of a command word: no other length exists (R47). -/
  | truncated
  deriving DecidableEq, Repr

/-- The command at the head of a byte sequence and the bytes after it. -/
def decodeBytes : List Byte → Except DecodeReject (Instr × List Byte)
  | b0 :: b1 :: b2 :: b3 :: rest => .ok (decodeWord (b3 ++ b2 ++ b1 ++ b0), rest)
  | _ => .error .truncated

/-- The four bytes of a command word, in the lanes of R35. -/
def encodeBytes (i : Instr) : List Byte :=
  let w := encode i
  [w.extractLsb' 0 8, w.extractLsb' 8 8, w.extractLsb' 16 8, w.extractLsb' 24 8]

/-- The four bytes of the number `w`, least significant first. -/
def tableBytes (w : Nat) : List Byte :=
  [BitVec.ofNat 8 w, BitVec.ofNat 8 (w / 0x100), BitVec.ofNat 8 (w / 0x10000),
   BitVec.ofNat 8 (w / 0x1000000)]

/-- The command that the decoder reads from an opcode-table word of `nbits` bits whose bits are `w`; the bits
above `nbits` are 0. A row that is longer than the one format of 32 bits is no command (R47). -/
def decodeTableWord (nbits w : Nat) : Option Instr :=
  if nbits = 0 ∨ 32 < nbits ∨ 2 ^ nbits ≤ w then none
  else
    match decodeBytes (tableBytes w) with
    | .ok (i, _) => some i
    | .error _ => none

end Sys2Proof
end

