-- ==== Sys2Proof/Machine/Tables.lean ====
section
/-!
DEFINITION. Byte sequences, the field GF(2^8), the substitution table and the round constants
(spec 40_tables.md, R58 to R66). All of it is constant data and pure functions: none of it is state (R32, R58).
-/

namespace Sys2Proof

/-- Byte `j` of a schedule word; 0 beyond its four bytes, where no rule reads. -/
def SWord.get (w : SWord) : Nat → Byte
  | 0 => w.b0
  | 1 => w.b1
  | 2 => w.b2
  | 3 => w.b3
  | _ => 0

/-- The four bytes of a schedule word, byte 0 first (R68). -/
def SWord.bytes (w : SWord) : List Byte := [w.b0, w.b1, w.b2, w.b3]

/-- Byte-wise XOR of two schedule words (R10, R67). -/
def SWord.xor (v w : SWord) : SWord :=
  ⟨v.b0 ^^^ w.b0, v.b1 ^^^ w.b1, v.b2 ^^^ w.b2, v.b3 ^^^ w.b3⟩

/-- Bytes `4i .. 4i+3` of a byte sequence as one schedule word (R68). -/
def SWord.ofBytesAt (l : List Byte) (i : Nat) : SWord :=
  ⟨l.getD (4 * i) 0, l.getD (4 * i + 1) 0, l.getD (4 * i + 2) 0, l.getD (4 * i + 3) 0⟩

/-- Column `c` of a block; the zero column beyond its four. -/
def Block.col (b : Block) : Nat → SWord
  | 0 => b.c0
  | 1 => b.c1
  | 2 => b.c2
  | 3 => b.c3
  | _ => default

/-- The State byte `s[r][c]` at row `r`, column `c` (R75). -/
def Block.at (b : Block) (r c : Nat) : Byte := (b.col c).get r

/-- Byte `i` of the flat block: row `i mod 4`, column `i / 4` (R75, R81). -/
def Block.get (b : Block) (i : Nat) : Byte := b.at (i % 4) (i / 4)

/-- The sixteen bytes of a block in order (R81). -/
def Block.bytes (b : Block) : List Byte :=
  b.c0.bytes ++ b.c1.bytes ++ b.c2.bytes ++ b.c3.bytes

/-- The block whose byte `i` is `f i` (R75). -/
def Block.ofFn (f : Nat → Byte) : Block :=
  ⟨⟨f 0, f 1, f 2, f 3⟩, ⟨f 4, f 5, f 6, f 7⟩, ⟨f 8, f 9, f 10, f 11⟩, ⟨f 12, f 13, f 14, f 15⟩⟩

/-- The block whose byte `i` is byte `i` of a sequence; bytes the sequence lacks are 0. -/
def Block.ofBytes (l : List Byte) : Block := Block.ofFn fun i => l.getD i 0

/-- The block whose State byte at row `r`, column `c` is `f r c` (R75). -/
def Block.ofMatrix (f : Nat → Nat → Byte) : Block := Block.ofFn fun i => f (i % 4) (i / 4)

/-- `xtime`, doubling in GF(2^8): the shift drops bit 8, and 0x1B is XORed in when bit 7 was set
(R59; 90_conflicts.md C1 settles that the result is 8 bits wide). -/
def xtime (b : Byte) : Byte :=
  if b.getLsbD 7 then (b <<< 1) ^^^ 0x1B#8 else b <<< 1

/-- The loop of R60: `n` rounds left, `r` the sum so far, `a` the doubled factor, `b` shifted so that the
round's bit is bit 0. -/
def gmulLoop : Nat → Byte → Byte → Byte → Byte
  | 0, r, _, _ => r
  | n + 1, r, a, b => gmulLoop n (if b.getLsbD 0 then r ^^^ a else r) (xtime a) (b >>> 1)

/-- Multiplication in GF(2^8) modulo x^8+x^4+x^3+x+1 (R60). -/
def gmul (a b : Byte) : Byte := gmulLoop 8 0 a b

/-- The substitution table of R62, one list per row, rows and columns in the table's order. -/
def sboxRows : List (List Byte) := [
  [0x63, 0x7c, 0x77, 0x7b, 0xf2, 0x6b, 0x6f, 0xc5, 0x30, 0x01, 0x67, 0x2b, 0xfe, 0xd7, 0xab, 0x76],
  [0xca, 0x82, 0xc9, 0x7d, 0xfa, 0x59, 0x47, 0xf0, 0xad, 0xd4, 0xa2, 0xaf, 0x9c, 0xa4, 0x72, 0xc0],
  [0xb7, 0xfd, 0x93, 0x26, 0x36, 0x3f, 0xf7, 0xcc, 0x34, 0xa5, 0xe5, 0xf1, 0x71, 0xd8, 0x31, 0x15],
  [0x04, 0xc7, 0x23, 0xc3, 0x18, 0x96, 0x05, 0x9a, 0x07, 0x12, 0x80, 0xe2, 0xeb, 0x27, 0xb2, 0x75],
  [0x09, 0x83, 0x2c, 0x1a, 0x1b, 0x6e, 0x5a, 0xa0, 0x52, 0x3b, 0xd6, 0xb3, 0x29, 0xe3, 0x2f, 0x84],
  [0x53, 0xd1, 0x00, 0xed, 0x20, 0xfc, 0xb1, 0x5b, 0x6a, 0xcb, 0xbe, 0x39, 0x4a, 0x4c, 0x58, 0xcf],
  [0xd0, 0xef, 0xaa, 0xfb, 0x43, 0x4d, 0x33, 0x85, 0x45, 0xf9, 0x02, 0x7f, 0x50, 0x3c, 0x9f, 0xa8],
  [0x51, 0xa3, 0x40, 0x8f, 0x92, 0x9d, 0x38, 0xf5, 0xbc, 0xb6, 0xda, 0x21, 0x10, 0xff, 0xf3, 0xd2],
  [0xcd, 0x0c, 0x13, 0xec, 0x5f, 0x97, 0x44, 0x17, 0xc4, 0xa7, 0x7e, 0x3d, 0x64, 0x5d, 0x19, 0x73],
  [0x60, 0x81, 0x4f, 0xdc, 0x22, 0x2a, 0x90, 0x88, 0x46, 0xee, 0xb8, 0x14, 0xde, 0x5e, 0x0b, 0xdb],
  [0xe0, 0x32, 0x3a, 0x0a, 0x49, 0x06, 0x24, 0x5c, 0xc2, 0xd3, 0xac, 0x62, 0x91, 0x95, 0xe4, 0x79],
  [0xe7, 0xc8, 0x37, 0x6d, 0x8d, 0xd5, 0x4e, 0xa9, 0x6c, 0x56, 0xf4, 0xea, 0x65, 0x7a, 0xae, 0x08],
  [0xba, 0x78, 0x25, 0x2e, 0x1c, 0xa6, 0xb4, 0xc6, 0xe8, 0xdd, 0x74, 0x1f, 0x4b, 0xbd, 0x8b, 0x8a],
  [0x70, 0x3e, 0xb5, 0x66, 0x48, 0x03, 0xf6, 0x0e, 0x61, 0x35, 0x57, 0xb9, 0x86, 0xc1, 0x1d, 0x9e],
  [0xe1, 0xf8, 0x98, 0x11, 0x69, 0xd9, 0x8e, 0x94, 0x9b, 0x1e, 0x87, 0xe9, 0xce, 0x55, 0x28, 0xdf],
  [0x8c, 0xa1, 0x89, 0x0d, 0xbf, 0xe6, 0x42, 0x68, 0x41, 0x99, 0x2d, 0x0f, 0xb0, 0x54, 0xbb, 0x16]]

/-- `SBOX(x)`: the entry in row x[7:4], column x[3:0] (R62). -/
def sbox (x : Byte) : Byte := (sboxRows.getD (x.toNat / 16) []).getD (x.toNat % 16) 0

/-- The affine map A of R66, the check of the table; the engine itself uses the table. -/
def sboxAffine (y : Byte) : Byte :=
  y ^^^ y.rotateRight 4 ^^^ y.rotateRight 5 ^^^ y.rotateRight 6 ^^^ y.rotateRight 7 ^^^ 0x63#8

/-- The round-constant bytes rc_1 .. rc_10 (R63). -/
def rcTable : List Byte := [0x01, 0x02, 0x04, 0x08, 0x10, 0x20, 0x40, 0x80, 0x1b, 0x36]

/-- `RCON(j)`: rc_j and three bytes 0 for 1 ≤ j ≤ 10 (R63). The spec defines no other j and no rule reads one:
that the word is 0 for j = 0 and for j > 10 is the model's own (DESIGN CHOICE, log 11). -/
def rcon : Nat → SWord
  | 0 => ⟨0, 0, 0, 0⟩
  | j + 1 => ⟨rcTable.getD j 0, 0, 0, 0⟩

/-- `SubWord`: the substitution of each byte (R64). -/
def subWord (w : SWord) : SWord := ⟨sbox w.b0, sbox w.b1, sbox w.b2, sbox w.b3⟩

/-- `RotWord`: the four bytes rotated left by one (R65). -/
def rotWord (w : SWord) : SWord := ⟨w.b1, w.b2, w.b3, w.b0⟩

end Sys2Proof
end

