-- ==== Sys2Proof/Machine/BlockTransform.lean ====
section
/-!
DEFINITION. The Block Transform: the function Cipher, forward direction only (spec 42_block_transform.md,
R74 to R81; the inverse cipher is not in the hardware, R6).
-/

namespace Sys2Proof

/-- Round key `r`: schedule words `4r .. 4r+3`, one to a column (R68, R76). -/
def roundKey (w : List SWord) (r : Nat) : Block :=
  ⟨w.getD (4 * r) default, w.getD (4 * r + 1) default,
   w.getD (4 * r + 2) default, w.getD (4 * r + 3) default⟩

/-- `AddRoundKey`: every State byte XORed with the round key's byte at its place (R76). -/
def addRoundKey (s k : Block) : Block :=
  ⟨s.c0.xor k.c0, s.c1.xor k.c1, s.c2.xor k.c2, s.c3.xor k.c3⟩

/-- `SubBytes`: the table lookup of every State byte (R77). -/
def subBytes (s : Block) : Block :=
  ⟨subWord s.c0, subWord s.c1, subWord s.c2, subWord s.c3⟩

/-- `ShiftRows`: row `r` rotated left by `r` positions, s'[r][c] = s[r][(c + r) mod 4] (R78). -/
def shiftRows (s : Block) : Block :=
  Block.ofMatrix fun r c => s.at r ((c + r) % 4)

/-- One column of MixColumns: the product with the matrix of R79, 0x02•a = xtime a and
0x03•a = xtime a XOR a (R60). -/
def mixColumn (a : SWord) : SWord :=
  ⟨xtime a.b0 ^^^ (xtime a.b1 ^^^ a.b1) ^^^ a.b2 ^^^ a.b3,
   a.b0 ^^^ xtime a.b1 ^^^ (xtime a.b2 ^^^ a.b2) ^^^ a.b3,
   a.b0 ^^^ a.b1 ^^^ xtime a.b2 ^^^ (xtime a.b3 ^^^ a.b3),
   (xtime a.b0 ^^^ a.b0) ^^^ a.b1 ^^^ a.b2 ^^^ xtime a.b3⟩

/-- `MixColumns`: every column mixed (R79). -/
def mixColumns (s : Block) : Block :=
  ⟨mixColumn s.c0, mixColumn s.c1, mixColumn s.c2, mixColumn s.c3⟩

/-- Rounds 1 .. Nr-1 (R80): SubBytes, ShiftRows, MixColumns, AddRoundKey. -/
def middleRound (w : List SWord) (s : Block) (r : Nat) : Block :=
  addRoundKey (mixColumns (shiftRows (subBytes s))) (roundKey w r)

/-- The final round: no MixColumns (R80). -/
def finalRound (w : List SWord) (s : Block) (r : Nat) : Block :=
  addRoundKey (shiftRows (subBytes s)) (roundKey w r)

/-- `Cipher(in, w, Nr)` (R74). -/
def cipher (input : Block) (w : List SWord) (nr : Nat) : Block :=
  finalRound w
    ((List.range' 1 (nr - 1)).foldl (middleRound w) (addRoundKey input (roundKey w 0))) nr

end Sys2Proof
end

