-- ==== Sys2Proof/Machine/CounterStream.lean ====
section
/-!
DEFINITION. The counter block and the keystream (spec 44_counter_stream.md, R91 to R93, R95, R96).
-/

namespace Sys2Proof

/-- Byte `c` of a 64-bit number, `v[8c+7 : 8c]`. -/
def byteOf64 (v : BitVec 64) (c : Nat) : Byte := v.extractLsb' (8 * c) 8

/-- The nonce of a time value, least significant byte first (R92). -/
def nonceOfTime (t : BitVec 64) : List Byte := (List.range 8).map (byteOf64 t)

/-- `CounterBlock(nonce, b)`: the nonce, then the block index most significant byte first
(R91, R93; 90_conflicts.md C3). -/
def counterBlock (nonce : List Byte) (b : BitVec 64) : Block :=
  Block.ofFn fun i => if i < 8 then nonce.getD i 0 else byteOf64 b (15 - i)

/-- `KS(n, b)`: the keystream block of index `b` under nonce `n` (R96). -/
def keystream (nonce : List Byte) (b : BitVec 64) (w : List SWord) (nr : Nat) : Block :=
  cipher (counterBlock nonce b) w nr

/-- The output block of a chunk of `len` bytes: chunk byte `i` with keystream byte `i`, and 0x00 from `len` on
(R95, R96). -/
def xorBlock (d ks : Block) (len : Nat) : Block :=
  Block.ofFn fun i => if i < len then d.get i ^^^ ks.get i else 0x00#8

end Sys2Proof
end

