-- ==== Sys2Proof/Machine/Flags.lean ====
section
/-!
DEFINITION. The status register: its layout (R17), the numbers of the result codes (R118), and the two ways a
performed command leaves it (R21, R123). The engine has no other condition codes (R14). What PEND holds after a
perform step the spec leaves open (R30, R118): that it still holds the performed word, which nothing reads until the
next acceptance overwrites it, is the model's own (DESIGN CHOICE, log 5).
-/

namespace Sys2Proof.Machine

/-- The number of a result code in STATUS.ERR (R118). -/
def ResultCode.number : ResultCode → BitVec 4
  | .ok => 0
  | .errBits => 1
  | .errNoKey => 2
  | .errLen => 3
  | .errOp => 4

/-- STATUS as R17 lays it out: OUTLEN [20:16], NR [11:8], ERR [7:4], OVR [2], KEYVALID [1], BUSY [0], and 0 in
every reserved bit. -/
def statusWord (s : State) : Word :=
  0#11 ++ s.outLen ++ 0#4 ++ s.nri ++ s.err.number ++ 0#1 ++
    BitVec.ofBool s.ovr ++ BitVec.ofBool s.keyValid ++ BitVec.ofBool s.busy

/-- How a successful command ends: ERR is OK and BUSY is 0 (R18, R21). That `pend` keeps the performed word is the
model's own (DESIGN CHOICE, log 5). -/
def complete (s : State) : State := { s with err := .ok, busy := false }

/-- `error <CODE>`, how a command ends that is turned down: ERR is the code, OUTLEN and BUSY are 0, and nothing
else changes (R123). This is all the engine has in place of an exception (R117). That `pend` keeps the failing word is
the model's own (DESIGN CHOICE, log 5): no register and no read shows it (R16, R118). -/
def endError (code : ResultCode) (s : State) : State :=
  { s with err := code, outLen := 0, busy := false }

end Sys2Proof.Machine
end

