-- ==== Sys2Proof/Machine/Ops.lean ====
section
/-!
DEFINITION. The named operations over the engine's registers: byte lanes (R35), the byte views of the register
groups (R10), the schedule store (R29), the counter (R24, R97), the nonce (R92, R94), the acceptance of a command
(R16, R39) and reset (R131).
-/

namespace Sys2Proof.Machine

/-! ### Byte lanes (R35) -/

/-- The four bytes of a register, byte `k` from bits 8k+7..8k (R35). -/
def lanes (w : Word) : SWord :=
  ⟨w.extractLsb' 0 8, w.extractLsb' 8 8, w.extractLsb' 16 8, w.extractLsb' 24 8⟩

/-- The register that holds four bytes, byte `k` in bits 8k+7..8k (R35). -/
def ofLanes (b : SWord) : Word := b.b3 ++ b.b2 ++ b.b1 ++ b.b0

/-- Four registers as a block: byte `k` in register `k/4` (R35), which is column `k/4` (R75). -/
def blockOfRegs (r : Vector Word 4) : Block :=
  ⟨lanes r[0], lanes r[1], lanes r[2], lanes r[3]⟩

/-- A block as four registers. -/
def regsOfBlock (b : Block) : Vector Word 4 :=
  #v[ofLanes b.c0, ofLanes b.c1, ofLanes b.c2, ofLanes b.c3]

/-! ### The byte views of the register groups (R10, R35) -/

/-- KEYB[0..32). -/
def keyB (s : State) : List Byte := s.key.toList.flatMap fun w => (lanes w).bytes

/-- RawKey, KEYB[0..n) (R26, R86). -/
def rawKey (n : Nat) (s : State) : List Byte := (keyB s).take n

/-- DINB[0..16). -/
def dinB (s : State) : Block := blockOfRegs s.din

/-- DOUTB[0..16). -/
def doutB (s : State) : Block := blockOfRegs s.dout

/-- NONCEB[0..8). -/
def nonceB (s : State) : List Byte := (lanes s.nonceLo).bytes ++ (lanes s.nonceHi).bytes

/-- CTR = R[CTR_HI] ++ R[CTR_LO], the block index (R24). -/
def ctr (s : State) : BitVec 64 := s.ctrHi ++ s.ctrLo

/-! ### What a command writes -/

/-- CTR ← v (R24). -/
def setCtr (v : BitVec 64) (s : State) : State :=
  { s with ctrHi := v.extractLsb' 32 32, ctrLo := v.extractLsb' 0 32 }

/-- SCHED[0..len(w)) ← w; the words above keep their values (R29, R72). -/
def storeSchedule (w : List SWord) (old : Vector SWord 60) : Vector SWord 60 :=
  Vector.ofFn fun i => if (i : Nat) < w.length then w.getD i default else old[i]

/-- A key command loads the pair (w, Nr): SCHED, NRI and KEYVALID (R72, R89). -/
def loadSchedule (p : List SWord × Nat) (s : State) : State :=
  { s with sched := storeSchedule p.1 s.sched, nri := BitVec.ofNat 4 p.2, keyValid := true }

/-- DOUTB ← b and OUTLEN ← n (R82, R95). -/
def putDout (b : Block) (n : BitVec 5) (s : State) : State :=
  { s with dout := regsOfBlock b, outLen := n }

/-- NONCEB ← the bytes of the time value T, byte c being T[8c+7:8c]; CTR ← 0 (R92, R94). -/
def seedNonce (t : BitVec 64) (s : State) : State :=
  setCtr 0 { s with
    nonceLo := ofLanes (SWord.ofBytesAt (nonceOfTime t) 0)
    nonceHi := ofLanes (SWord.ofBytesAt (nonceOfTime t) 1) }

/-- The free value at the counter has been drawn. -/
def advanceDraws (s : State) : State := { s with draws := s.draws + 1 }

/-! ### Acceptance, reset, and the command the engine performs -/

/-- A write of CMD while BUSY = 0: the word is latched and BUSY is set (R16, R39). The number of intervals until
the perform step is drawn here, and may depend on the word and on everything the state holds (R138, R139, log 2). -/
def accept (w : Word) (s : State) : State :=
  { s with pend := w, busy := true, wait := Config.latency w s, draws := s.draws + 1 }

/-- Assertion of the reset input: every piece of the engine's state takes its reset value, so that a pending
command is discarded (R131, R132). The environment's fields stay. -/
def assertReset (s : State) : State :=
  { State.reset with rst := true, draws := s.draws, script := s.script, reads := s.reads }

/-- Release of the reset input. -/
def releaseReset (s : State) : State := { s with rst := false }

/-- The command of the word in PEND: there is no fetch, the engine's behaviour is fixed by the latched word
(R45, R55). -/
def pendingCommand (s : State) : Instr := decodeWord s.pend

/-- The engine is due to perform its pending command in this step (R43): reset is not asserted, a command is
pending, and its intervals have passed. -/
def performDue (s : State) : Bool := !s.rst && s.busy && s.wait == 0

/-- One more interval has passed for a pending command (R138). -/
def tick (s : State) : State := { s with wait := s.wait - 1 }

/-- The outside world's next event has been taken. -/
def dropEvent (s : State) : State := { s with script := s.script.drop 1 }

/-- A read at offset `off` has returned `v` to the host (R142). -/
def logRead (off : BitVec 7) (v : Word) (s : State) : State :=
  { s with reads := s.reads ++ [⟨off, v⟩] }

end Sys2Proof.Machine
end

