-- ==== Sys2Proof/Machine/Bus.lean ====
section
/-!
DEFINITION. The host port: the register window (R15, R33 to R41) and what one event of the outside world does to
the block (R37 to R43, R57, R131, R132).
-/

namespace Sys2Proof.Machine

/-- The register at a byte offset that is a multiple of 4 (R15). -/
def regAt (off : BitVec 7) : Reg :=
  match off.toNat with
  | 0x00 => .cmd
  | 0x04 => .status
  | 0x08 => .ctrLo
  | 0x0C => .ctrHi
  | 0x10 => .nonceLo
  | 0x14 => .nonceHi
  | 0x20 => .key 0
  | 0x24 => .key 1
  | 0x28 => .key 2
  | 0x2C => .key 3
  | 0x30 => .key 4
  | 0x34 => .key 5
  | 0x38 => .key 6
  | 0x3C => .key 7
  | 0x40 => .din 0
  | 0x44 => .din 1
  | 0x48 => .din 2
  | 0x4C => .din 3
  | 0x50 => .dout 0
  | 0x54 => .dout 1
  | 0x58 => .dout 2
  | 0x5C => .dout 3
  | _ => .reserved

/-- The one form of access the block performs: 32 bits at a multiple of 4 (R37). -/
def accessOk (bytes : Nat) (off : BitVec 7) : Bool := bytes == 4 && off.toNat % 4 == 0

/-- What a host read of a register returns (R15, R39): CMD, KEY and reserved offsets read 0, and no read has a
side effect (R41). -/
def readReg (s : State) : Reg → Word
  | .cmd => 0
  | .status => statusWord s
  | .ctrLo => s.ctrLo
  | .ctrHi => s.ctrHi
  | .nonceLo => s.nonceLo
  | .nonceHi => s.nonceHi
  | .key _ => 0
  | .din j => s.din[j]
  | .dout j => s.dout[j]
  | .reserved => 0

/-- What a host write does while BUSY = 0 (R15, R39). STATUS is not written here: its write is always
accepted. -/
def writeReg (v : Word) (s : State) : Reg → State
  | .cmd => accept v s
  | .status => s
  | .ctrLo => { s with ctrLo := v }
  | .ctrHi => { s with ctrHi := v }
  | .nonceLo => { s with nonceLo := v }
  | .nonceHi => { s with nonceHi := v }
  | .key j => { s with key := s.key.set j v }
  | .din j => { s with din := s.din.set j v }
  | .dout _ => s
  | .reserved => s

/-- A write of STATUS: bit 2 = 1 clears OVR, and nothing else changes (R17). -/
def writeStatus (v : Word) (s : State) : State :=
  if v.getLsbD 2 then { s with ovr := false } else s

/-- A write that arrives while BUSY = 1 is dropped, and OVR is set (R20). -/
def dropWrite (s : State) : State := { s with ovr := true }

/-- `BusRead(off)` for an aligned offset (R39). -/
def busRead (off : BitVec 7) (s : State) : Word := readReg s (regAt off)

/-- `BusWrite(off, v)` for an aligned offset (R39). -/
def busWrite (off : BitVec 7) (v : Word) (s : State) : State :=
  if regAt off = .status then writeStatus v s
  else if s.busy then dropWrite s
  else writeReg v s (regAt off)

/-- A host read, while reset is asserted as well: then it returns 0 (R132). -/
def hostRead (off : BitVec 7) (s : State) : Word := if s.rst then 0 else busRead off s

/-- A host write, while reset is asserted as well: then it has no effect (R132). -/
def hostWrite (off : BitVec 7) (v : Word) (s : State) : State :=
  if s.rst then s else busWrite off v s

/-- The offset of STATUS. -/
def statusOff : BitVec 7 := 0x04

/-- One pass of the host's POLL loop: it reads STATUS and goes on when BUSY = 0 (R57). -/
def pollOnce (s : State) : State :=
  if (hostRead statusOff s).getLsbD 0 then logRead statusOff (hostRead statusOff s) s
  else dropEvent (logRead statusOff (hostRead statusOff s) s)

/-- What one event does to the block; a malformed access is a bus error of the host's step, also while reset is
asserted (R37, R126, log 7). -/
def takeEvent (e : Event) (s : State) : Host.Outcome State Fault Refusal :=
  match e with
  | .read bytes off =>
      if accessOk bytes off then .next (dropEvent (logRead off (hostRead off s) s))
      else .fault (.busError off)
  | .write bytes off v =>
      if accessOk bytes off then .next (dropEvent (hostWrite off v s))
      else .fault (.busError off)
  | .poll => .next (pollOnce s)
  | .idle => .next (dropEvent s)
  | .resetOn => .next (dropEvent (assertReset s))
  | .resetOff => .next (dropEvent (releaseReset s))

/-- One host-observable interval: the next event of the outside world, if there is one. A machine whose script is
empty waits (R142, log 4). -/
def hostTurn (s : State) : Host.Outcome State Fault Refusal :=
  match s.script with
  | [] => .next s
  | e :: _ => takeEvent e s

/-! ### Host addresses (R34) -/

/-- The host address of an offset of the window (R34). -/
def addressOf (off : BitVec 7) : Nat := Config.base + off.toNat

/-- The offset a host address selects, address − BASE; none outside the window, which is not part of the block
(R34). -/
def offsetOf (addr : Nat) : Option (BitVec 7) :=
  if Config.base ≤ addr ∧ addr < Config.base + 0x80 then some (BitVec.ofNat 7 (addr - Config.base))
  else none

/-- `MemRead(addr, n)` as an event of the window, `BusRead(address − BASE)` (R10, R34). -/
def memReadEvent (addr bytes : Nat) : Option Event := (offsetOf addr).map (Event.read bytes)

/-- `MemWrite(addr, n, v)` as an event of the window, `BusWrite(address − BASE, v)` (R10, R34). -/
def memWriteEvent (addr bytes : Nat) (v : Word) : Option Event :=
  (offsetOf addr).map fun off => Event.write bytes off v

end Sys2Proof.Machine
end

