-- ==== Sys2Proof/Machine/BlockCommands.lean ====
section
/-!
DEFINITION. The single-block command ENCBLK (spec 42_block_transform.md R82).
-/

namespace Sys2Proof.Machine

/-- ENCBLK: DOUTB ← Cipher(DINB, SCHED, NRI), OUTLEN ← 16; ERR_NOKEY without a loaded schedule (R82, R121). -/
def execEncblk (s : State) : Host.Outcome State Fault Refusal :=
  if s.keyValid then
    .next (complete (putDout (cipher (dinB s) s.sched.toList s.nri.toNat) 16#5 s))
  else .next (endError .errNoKey s)

end Sys2Proof.Machine
end

