-- ==== Sys2Proof/Machine/KeySchedule.lean ====
section
/-!
DEFINITION. The Key Scheduler: the function KeyExpansion (spec 41_key_schedule.md, R67 to R71). One routine
serves Nk = 4, 6 and 8 (R71).
-/

namespace Sys2Proof

/-- The word that R67's loop XORs with `w[i-Nk]`, from `prev = w[i-1]` (R69, R70). -/
def scheduleTemp (nk i : Nat) (prev : SWord) : SWord :=
  if i % nk = 0 then (subWord (rotWord prev)).xor (rcon (i / nk))
  else if 6 < nk ∧ i % nk = 4 then subWord prev
  else prev

/-- Iteration `i` of R67's loop: `w` holds words `0 .. i-1`, and word `i` is appended. -/
def scheduleStep (nk : Nat) (w : List SWord) (i : Nat) : List SWord :=
  w ++ [(w.getD (i - nk) default).xor (scheduleTemp nk i (w.getD (i - 1) default))]

/-- The first Nk words: the key grouped in chunks of four bytes (R68). -/
def keyWords (key : List Byte) (nk : Nat) : List SWord :=
  (List.range nk).map (SWord.ofBytesAt key)

/-- `KeyExpansion(key)`: the pair of the expanded schedule, 4·(Nr+1) words, and Nr (R67). -/
def keyExpansion (key : List Byte) : List SWord × Nat :=
  let nk := key.length / 4
  let nr := nk + 6
  ((List.range' nk (4 * (nr + 1) - nk)).foldl (scheduleStep nk) (keyWords key nk), nr)

end Sys2Proof
end

