-- ==== Sys2Proof/Machine/KeyDerivation.lean ====
section
/-!
DEFINITION. Key Derivation: the function DeriveKey (spec 43_key_derivation.md, R85 to R88).
-/

namespace Sys2Proof

/-- Derived16: the first sixteen bytes of the raw key, encrypted under the raw key's own schedule
(R85, R87; 90_conflicts.md C4 settles which bytes are the block). -/
def derived16 (raw : List Byte) : List Byte :=
  (cipher (Block.ofBytes (raw.take 16)) (keyExpansion raw).1 (keyExpansion raw).2).bytes

/-- `DeriveKey(raw)`: Derived16, extended by its own first `N - 16` bytes (R85, R88). -/
def deriveKey (raw : List Byte) : List Byte :=
  derived16 raw ++ (derived16 raw).take (raw.length - 16)

end Sys2Proof
end

