-- ==== Sys2Proof/Machine/Operands.lean ====
section
/-!
DEFINITION. The operand forms of a command word: BITS of the key commands (R50) and LEN of XORCHUNK (R49).
-/

namespace Sys2Proof.Machine

/-- N, the key length in bytes, of an accepted BITS; none for any other value (R50, R120). -/
def keyLength (bits : BitVec 16) : Option Nat :=
  if bits = 128#16 ∨ bits = 192#16 ∨ bits = 256#16 then some (bits.toNat / 8) else none

/-- XORCHUNK accepts 1 ≤ LEN ≤ 16 (R49, R122). -/
def lenAccepted (len : BitVec 5) : Bool := 1 ≤ len.toNat && len.toNat ≤ 16

end Sys2Proof.Machine
end

