-- ==== Sys2Proof/Machine/KeyCommands.lean ====
section
/-!
DEFINITION. The key commands KEYEXP (spec 41_key_schedule.md R72) and KEYDERIVE (43_key_derivation.md R89).
-/

namespace Sys2Proof.Machine

/-- KEYEXP: SCHED ← KeyExpansion(KEYB[0..N)); ERR_BITS for a BITS that is not accepted (R72, R120). -/
def execKeyexp (bits : BitVec 16) (s : State) : Host.Outcome State Fault Refusal :=
  match keyLength bits with
  | none => .next (endError .errBits s)
  | some n => .next (complete (loadSchedule (keyExpansion (rawKey n s)) s))

/-- KEYDERIVE: SCHED ← KeyExpansion(DeriveKey(KEYB[0..N))); ERR_BITS for a BITS that is not accepted
(R89, R120). -/
def execKeyderive (bits : BitVec 16) (s : State) : Host.Outcome State Fault Refusal :=
  match keyLength bits with
  | none => .next (endError .errBits s)
  | some n => .next (complete (loadSchedule (keyExpansion (deriveKey (rawKey n s))) s))

end Sys2Proof.Machine
end

