-- ==== Sys2Proof/Machine/StreamCommands.lean ====
section
/-!
DEFINITION. The stream commands CTRSEED and XORCHUNK (spec 44_counter_stream.md R94, R95).
-/

namespace Sys2Proof.Machine

/-- CTRSEED: T is the value of the port `time_ms` at this step, a free value; NONCEB ← its bytes, CTR ← 0
(R94, log 1). -/
def execCtrseed (s : State) : Host.Outcome State Fault Refusal :=
  .next (complete (advanceDraws (seedNonce (Config.timeMs s.draws) s)))

/-- XORCHUNK: DOUTB[0..LEN) ← DINB XOR keystream of CTR, the bytes above 0x00, OUTLEN ← LEN, CTR ← CTR + 1
modulo 2^64; ERR_LEN before ERR_NOKEY (R95, R97, R124). -/
def execXorchunk (len : BitVec 5) (s : State) : Host.Outcome State Fault Refusal :=
  if lenAccepted len then
    if s.keyValid then
      .next (complete (setCtr (ctr s + 1) (putDout
        (xorBlock (dinB s) (keystream (nonceB s) (ctr s) s.sched.toList s.nri.toNat) len.toNat) len s)))
    else .next (endError .errNoKey s)
  else .next (endError .errLen s)

end Sys2Proof.Machine
end

