-- ==== Sys2Proof/Machine/SystemCommands.lean ====
section
/-!
DEFINITION. NOP and the reserved commands (spec 45_host_protocol.md R100; 30_encoding.md R53; 60_exceptions.md
R119).
-/

namespace Sys2Proof.Machine

/-- NOP: ERR ← OK, BUSY ← 0 (R100). -/
def execNop (s : State) : Host.Outcome State Fault Refusal := .next (complete s)

/-- OP 0x6 and 0x7 end in ERR_OP (R53, R119). -/
def execReservedOp6to7 (s : State) : Host.Outcome State Fault Refusal := .next (endError .errOp s)

/-- OP 0x8 to 0xF end in ERR_OP (R53, R119). -/
def execReservedOp8to15 (s : State) : Host.Outcome State Fault Refusal := .next (endError .errOp s)

end Sys2Proof.Machine
end

