-- ==== Sys2Proof/Machine/Dispatch.lean ====
section
/-!
DEFINITION. The perform step of every command: one arm per constructor of Instr, each a direct call of the
command's meaning with the fields its rule reads (R52, R54).
-/

namespace Sys2Proof.Machine

def exec (i : Instr) (s : State) : Host.Outcome State Fault Refusal :=
  match i with
  | .nop _ _ _ => Sys2Proof.Machine.execNop s
  | .keyexp _ _ bits => Sys2Proof.Machine.execKeyexp bits s
  | .keyderive _ _ bits => Sys2Proof.Machine.execKeyderive bits s
  | .encblk _ _ _ => Sys2Proof.Machine.execEncblk s
  | .ctrseed _ _ _ => Sys2Proof.Machine.execCtrseed s
  | .xorchunk len _ _ => Sys2Proof.Machine.execXorchunk len s
  | .reservedOp6to7 _ _ _ _ => Sys2Proof.Machine.execReservedOp6to7 s
  | .reservedOp8to15 _ _ _ _ => Sys2Proof.Machine.execReservedOp8to15 s

end Sys2Proof.Machine
end

