-- ==== Sys2Proof/Machine/Step.lean ====
section
/-!
DEFINITION. One step of the machine (R9, R43). Either the engine performs its pending command, whole and
atomically, or one host-observable interval passes with the next event of the outside world.
-/

namespace Sys2Proof.Machine

/-- One step: the perform step when it is due, else one interval. -/
def step (s : State) : Host.Outcome State Fault Refusal :=
  if performDue s then exec (pendingCommand s) s else hostTurn (tick s)

/-- `s` with the command word `w` accepted and its perform step due, as if the host had written it to CMD: the
engine fetches nothing, so this stands for the host's write (R16, R45; log 8). -/
def State.withFetchWord (s : State) (nbits w : Nat) : State :=
  { s with pend := BitVec.ofNat 32 (w % 2 ^ nbits), busy := true, wait := 0, rst := false }

end Sys2Proof.Machine
end

