-- ==== Sys2Proof/Machine/HostCodec.lean ====
section
/-!
DEFINITION. The hex codec and the token rules of the wire format (spec 45_host_protocol.md, R103, R104, R110,
R113) and the splitting of a message into chunks (R99). They run on the host, not in the engine (R101).
-/

namespace Sys2Proof

/-- The character code of a hex digit, lowercase (R103). -/
def hexDigit (n : Nat) : Nat := if n < 10 then 0x30 + n else 0x61 + (n - 10)

/-- `Hex(s)`: two characters a byte, high nibble first (R103). -/
def hex (s : List Byte) : Text := s.flatMap fun b => [hexDigit (b.toNat / 16), hexDigit (b.toNat % 16)]

/-- The value of a hex digit of either case; none for any other character (R104). -/
def hexValue (c : Nat) : Option Nat :=
  if 0x30 ≤ c ∧ c ≤ 0x39 then some (c - 0x30)
  else if 0x61 ≤ c ∧ c ≤ 0x66 then some (c - 0x61 + 10)
  else if 0x41 ≤ c ∧ c ≤ 0x46 then some (c - 0x41 + 10)
  else none

/-- `Unhex(t)`; none where R104 raises MalformedCiphertext: an odd length, or a character that is no hex
digit. -/
def unhex : Text → Option (List Byte)
  | [] => some []
  | [_] => none
  | h :: l :: rest =>
    match hexValue h, hexValue l, unhex rest with
    | some x, some y, some bs => some (BitVec.ofNat 8 (16 * x + y) :: bs)
    | _, _, _ => none

/-- The character code of a space, U+0020 (R108, R110). -/
def space : Nat := 0x20

/-- The tokens of a text split at every space, empty tokens kept; there is always at least one (R110). -/
def tokens : Text → List Text
  | [] => [[]]
  | c :: rest =>
    if c = space then [] :: tokens rest
    else
      match tokens rest with
      | t :: ts => (c :: t) :: ts
      | [] => [[c]]

/-- A chunk token is well-formed: even length 2..32, hex digits only (R110). -/
def chunkTokenOk (t : Text) : Bool :=
  t.length % 2 == 0 && 2 ≤ t.length && t.length ≤ 32 && (unhex t).isSome

/-- A ciphertext is well-formed: a nonce token of 16 hex digits, then well-formed chunk tokens (R110, R113). -/
def cipherTextOk (c : Text) : Bool :=
  match tokens c with
  | [] => false
  | t0 :: ts => t0.length == 16 && (unhex t0).isSome && ts.all chunkTokenOk

/-- The bytes of a token; empty where `Unhex` is undefined, which a well-formed ciphertext excludes. -/
def tokenBytes (t : Text) : List Byte := (unhex t).getD []

/-- The nonce bytes of a ciphertext (R110). -/
def cipherNonce (c : Text) : List Byte := tokenBytes ((tokens c).headD [])

/-- The chunks of a ciphertext, in token order (R110). -/
def cipherChunks (c : Text) : List (List Byte) := ((tokens c).drop 1).map tokenBytes

/-- The ciphertext of a nonce and chunks: the nonce token, then one space and one token a chunk
(R108, R109). -/
def cipherText (nonce : List Byte) (chunks : List (List Byte)) : Text :=
  hex nonce ++ chunks.flatMap fun c => space :: hex c

/-- The chunks of a message: chunk b is bytes 16b .. min(16b+16, L) - 1 (R99). -/
def chunksOf (p : List Byte) : List (List Byte) :=
  (List.range ((p.length + 15) / 16)).map fun b => (p.drop (16 * b)).take 16

/-- Every character code of the text is a byte value (R105, R106). -/
def byteCodes (t : Text) : Bool := t.all fun c => c ≤ 255

/-- The bytes of a text all of whose codes are byte values (R105, R106). -/
def textBytes (t : Text) : List Byte := t.map (BitVec.ofNat 8)

/-- Bytes to text: byte value v is the character with code v (R106). -/
def bytesText (s : List Byte) : Text := s.map BitVec.toNat

end Sys2Proof
end

