-- ==== Sys2Proof/Machine/HostCalls.lean ====
section
/-!
DEFINITION. The two calls of the source, `encrypt` and `decrypt` (spec 45_host_protocol.md, R101 to R116): their
results as functions of the engine's rules alone, with the time value a parameter of `encrypt` (R101), and the
register sequences by which a host computes them on the engine (R107, R111).
-/

namespace Sys2Proof.Machine

/-! ### The arguments of a call (R102, R105, R106) -/

/-- The one validation rule: bits ∈ {128, 192, 256}, checked on the host's value (R102). -/
def bitsAccepted (bits : Int) : Bool := bits == 128 || bits == 192 || bits == 256

/-- N = bits / 8 for an accepted value (R50). -/
def bitsLength (bits : Int) : Nat := bits.toNat / 8

/-- The key text has N characters and the first N are byte values (R105, R128). -/
def keyTextOk (n : Nat) (k : Text) : Bool := n ≤ k.length && byteCodes (k.take n)

/-- RawKey: the first N character codes (R105). -/
def keyTextBytes (n : Nat) (k : Text) : List Byte := textBytes (k.take n)

/-! ### The results of the calls -/

/-- Chunk `b` XORed with as many bytes of its keystream block (R96, R99). -/
def xorChunk (w : List SWord × Nat) (nonce : List Byte) (b : Nat) (d : List Byte) : List Byte :=
  List.zipWith (· ^^^ ·) d (keystream nonce (BitVec.ofNat 64 b) w.1 w.2).bytes

/-- All chunks of a message in order, the block index from 0 (R107, R111). -/
def xorChunks (w : List SWord × Nat) (nonce : List Byte) (chunks : List (List Byte)) :
    List (List Byte) :=
  (chunks.zipIdx).map fun cb => xorChunk w nonce cb.2 cb.1

/-- The schedule of a call: KeyExpansion of the derived key (R89, R107, R111). -/
def callSchedule (raw : List Byte) : List SWord × Nat := keyExpansion (deriveKey raw)

/-- The ciphertext of message bytes under a raw key at time T (R107, R108). -/
def encryptBytes (raw p : List Byte) (t : BitVec 64) : Text :=
  cipherText (nonceOfTime t) (xorChunks (callSchedule raw) (nonceOfTime t) (chunksOf p))

/-- The message bytes of a well-formed ciphertext under a raw key (R112). -/
def decryptBytes (raw : List Byte) (c : Text) : List Byte :=
  (xorChunks (callSchedule raw) (cipherNonce c) (cipherChunks c)).flatten

/-- `encrypt(P, K, bits)` at time T (R101, R107). The checks come in the order bits, key text, message text
(R124); an invalid `bits` gives the empty text. -/
def encrypt (p k : Text) (bits : Int) (t : BitVec 64) : Host.Outcome Text Fault Refusal :=
  if !bitsAccepted bits then .next []
  else if !keyTextOk (bitsLength bits) k then .refused .invalidText
  else if !byteCodes p then .refused .invalidText
  else .next (encryptBytes (keyTextBytes (bitsLength bits) k) (textBytes p) t)

/-- `decrypt(C, K, bits)` (R101, R111). The checks come in the order bits, key text, form of the ciphertext
(R124), the last on the whole of C before any chunk is processed. -/
def decrypt (c k : Text) (bits : Int) : Host.Outcome Text Fault Refusal :=
  if !bitsAccepted bits then .next []
  else if !keyTextOk (bitsLength bits) k then .refused .invalidText
  else if !cipherTextOk c then .fault (.malformedCiphertext c)
  else .next (bytesText (decryptBytes (keyTextBytes (bitsLength bits) k) c))

/-! ### The host's register sequences (R57) -/

/-- `WR reg, imm32` (R57). -/
def wr (off : BitVec 7) (v : Word) : Event := .write 4 off v

/-- `RD reg` (R57). -/
def rd (off : BitVec 7) : Event := .read 4 off

/-- Offset of CMD, and of the first register of each group (R15). -/
def cmdOff : BitVec 7 := 0x00
def ctrLoOff : BitVec 7 := 0x08
def ctrHiOff : BitVec 7 := 0x0C
def nonceOff : BitVec 7 := 0x10
def keyOff : BitVec 7 := 0x20
def dinOff : BitVec 7 := 0x40
def doutOff : BitVec 7 := 0x50

/-- `CMD c`: a write of the command's word to CMD (R57). -/
def cmdEvent (i : Instr) : Event := wr cmdOff (encode i)

/-- `RUN c` = `CMD c; POLL` (R57). -/
def runCmd (i : Instr) : List Event := [cmdEvent i, .poll]

/-- The words a byte sequence fills, ceil(n/4) (R57). -/
def wordCount (n : Nat) : Nat := (n + 3) / 4

/-- `WRBYTES group, h`: the words of `h` from register 0 of the group upward, a final partial word padded with
zero bytes (R57). -/
def wrBytes (group : BitVec 7) (h : List Byte) : List Event :=
  (List.range (wordCount h.length)).map fun j =>
    wr (group + BitVec.ofNat 7 (4 * j)) (ofLanes (SWord.ofBytesAt h j))

/-- `RDBYTES group, n`: the reads of ceil(n/4) words (R57). -/
def rdBytes (group : BitVec 7) (n : Nat) : List Event :=
  (List.range (wordCount n)).map fun j => rd (group + BitVec.ofNat 7 (4 * j))

/-- One chunk: WRBYTES DIN, RUN XORCHUNK, RDBYTES DOUT (R107, R111). -/
def chunkEvents (d : List Byte) : List Event :=
  wrBytes dinOff d ++ runCmd (asmXorchunk (BitVec.ofNat 5 d.length)) ++ rdBytes doutOff d.length

/-- The key loading of both calls: WRBYTES KEY, RUN KEYDERIVE (R107, R111). -/
def keyEvents (raw : List Byte) : List Event :=
  wrBytes keyOff raw ++ runCmd (asmKeyderive (BitVec.ofNat 16 (8 * raw.length)))

/-- The host sequence of `encrypt` once its arguments are accepted (R107). -/
def encryptEvents (raw p : List Byte) : List Event :=
  keyEvents raw ++ runCmd asmCtrseed ++ rdBytes nonceOff 8 ++ (chunksOf p).flatMap chunkEvents

/-- The host sequence of `decrypt` once its arguments are accepted (R111). -/
def decryptEvents (raw : List Byte) (c : Text) : List Event :=
  keyEvents raw ++ wrBytes nonceOff (cipherNonce c) ++ [wr ctrLoOff 0, wr ctrHiOff 0] ++
    (cipherChunks c).flatMap chunkEvents

/-! ### What the host makes of its reads -/

/-- The bytes of the reads other than those of POLL, in order. -/
def dataBytes (rs : List HostRead) : List Byte :=
  (rs.filter fun r => r.off != statusOff).flatMap fun r => (lanes r.value).bytes

/-- One byte run a chunk: RDBYTES keeps `n` of the `4·ceil(n/4)` bytes it reads (R57). -/
def splitReply : List Nat → List Byte → List (List Byte)
  | [], _ => []
  | n :: ns, s => s.take n :: splitReply ns (s.drop (4 * wordCount n))

/-- The ciphertext the host of R107 assembles: Hex of the nonce it read, then a token a chunk. -/
def encryptReply (p : List Byte) (rs : List HostRead) : Text :=
  cipherText ((dataBytes rs).take 8) (splitReply ((chunksOf p).map List.length) ((dataBytes rs).drop 8))

/-- The text the host of R111 assembles from the chunks it read. -/
def decryptReply (c : Text) (rs : List HostRead) : Text :=
  bytesText (splitReply ((cipherChunks c).map List.length) (dataBytes rs)).flatten

end Sys2Proof.Machine
end

