-- ==== Sys2Proof/Safety.lean ====
section
/-!
DEFINITION. What counts as a safe state and a safe run, in the terms the statements use: the invariants of the
machine, the end of a run and its observation (R142), and the host that keeps to the busy protocol (R135).
-/

namespace Sys2Proof.Machine

/-- The round counts of a loaded schedule (R22). -/
def legalRounds (n : BitVec 4) : Bool := n == 10 || n == 12 || n == 14

/-- The status fields keep the values the spec admits: KEYVALID is 1 exactly when NRI is a round count of a
loaded schedule, and NRI is 0 otherwise (R19, R22, R29); OUTLEN is at most 16 (R17, R23); a result code other
than OK stands beside OUTLEN = 0 (R23, R123). -/
def StatusLegal (s : State) : Prop :=
  (s.keyValid = true → legalRounds s.nri = true) ∧ (s.keyValid = false → s.nri = 0) ∧
  s.outLen.toNat ≤ 16 ∧ (s.err ≠ .ok → s.outLen = 0)

/-- SCHED holds the complete expansion of some key of Nk = NRI - 6 words (R19, R29). -/
def ScheduleComplete (s : State) : Prop :=
  ∃ key : List Byte, key.length = 4 * (s.nri.toNat - 6) ∧
    keyExpansion key = (s.sched.toList.take (4 * (s.nri.toNat + 1)), s.nri.toNat)

/-- Nothing has been computed while no key is loaded: SCHED, DOUT and OUTLEN stand at their reset values
(R121, R131). -/
def NoKeyNoOutput (s : State) : Prop :=
  s.keyValid = false →
    s.sched = State.reset.sched ∧ s.dout = State.reset.dout ∧ s.outLen = 0

/-- While reset is asserted, every piece of the engine's state is at its reset value (R131, R132). -/
def ResetHolds (s : State) : Prop :=
  s.rst = true →
    s = { State.reset with rst := true, wait := s.wait, draws := s.draws, script := s.script, reads := s.reads }

/-- The invariant of the machine. -/
def MachineInv (s : State) : Prop :=
  StatusLegal s ∧ (s.keyValid = true → ScheduleComplete s) ∧ NoKeyNoOutput s ∧ ResetHolds s

/-- The events that are accesses of the host; an idle interval and an edge of the reset input are none (R37, R57,
R142). -/
def hostAccess : Event → Bool
  | .read _ _ => true
  | .write _ _ _ => true
  | .poll => true
  | .idle => false
  | .resetOn => false
  | .resetOff => false

/-- A run is over: no access of the host is still to come and no command is pending (R142). -/
def runEnded (s : State) : Bool := !s.script.any hostAccess && !s.busy

/-- What a run is judged by (R142): the values the host read, in order, and the registers, those the host cannot
read among them (KEY, R26; SCHED and NRI, R29). CMD stores nothing and PEND means nothing while BUSY is 0 (R16,
R30). -/
structure Observation where
  reads : List HostRead
  status : Word
  ctrLo : Word
  ctrHi : Word
  nonceLo : Word
  nonceHi : Word
  key : Vector Word 8
  din : Vector Word 4
  dout : Vector Word 4
  sched : Vector SWord 60
  nri : BitVec 4
  deriving DecidableEq, Repr

/-- The observation of a run that is over in `s`: what the host read, and the final register state (R142). -/
def observation (s : State) : Observation where
  reads := s.reads
  status := statusWord s
  ctrLo := s.ctrLo
  ctrHi := s.ctrHi
  nonceLo := s.nonceLo
  nonceHi := s.nonceHi
  key := s.key
  din := s.din
  dout := s.dout
  sched := s.sched
  nri := s.nri

/-- The host keeps to the busy protocol of R135: `busy` says whether a command may be pending here. After a CMD
write it makes no write but of STATUS until a POLL, and every access is an aligned 32-bit one (R37). -/
def conforming : Bool → List Event → Bool
  | _, [] => true
  | b, .read bytes off :: es => accessOk bytes off && conforming b es
  | b, .write bytes off _ :: es =>
    accessOk bytes off && (!b || regAt off == .status) && conforming (b || regAt off == .cmd) es
  | _, .poll :: es => conforming false es
  | b, .idle :: es => conforming b es
  | _, .resetOn :: es => conforming false es
  | b, .resetOff :: es => conforming b es

end Sys2Proof.Machine
end

