-- ==== Sys2Proof/Certificates/Slice0/Obligations.lean ====
section
/-!
DEFINITION. The statements about the engine, from the numbered rules of the spec. Each docstring names the rule or
the sentence it formalises. Where a statement says that a command changes nothing else, `pend` is among what stays:
PEND has no meaning after the perform step (R30), and that it keeps the performed word is the model's own
(DESIGN CHOICE, log 5). A free value (a value of `Config.timeMs` or `Config.latency`) is never fixed: every
statement holds for all of them.
-/

open Sys2Proof
open Sys2Proof.Machine

/-! ## The command word -/

/-- Words written out from the spec's own examples (R54, R56; 95_test_vectors.md V60) decode to the commands they
stand for, one for every row of the opcode table. -/
def Obligations.SpecWordsDecode : Prop :=
  decodeWord 0x00000000 = .nop 0 0 0 ∧
  decodeWord 0x00800001 = .keyexp 0 0 128 ∧
  decodeWord 0x00640002 = .keyderive 0 0 100 ∧
  decodeWord 0x00800003 = .encblk 0 0 128 ∧
  decodeWord 0x00000004 = .ctrseed 0 0 0 ∧
  decodeWord 0x012C00B5 = .xorchunk 11 0 300 ∧
  decodeWord 0x00000006 = .reservedOp6to7 0x6 0 0 0 ∧
  decodeWord 0x0080000F = .reservedOp8to15 0xF 0 0 128

/-- The opcode map (R48, R52, R55): OP is the word modulo 16, the other fields lie where R47 puts them, and the
command is the one the map gives the OP. -/
def Obligations.DecodeFollowsOpcodeMap : Prop :=
  ∀ w : Word,
    (fieldOp w).toNat = w.toNat % 16 ∧ (fieldLen w).toNat = w.toNat / 16 % 32 ∧
    (fieldRsvd w).toNat = w.toNat / 512 % 128 ∧ (fieldBits w).toNat = w.toNat / 65536 ∧
    decodeWord w =
      if w.toNat % 16 = 0 then .nop (fieldLen w) (fieldRsvd w) (fieldBits w)
      else if w.toNat % 16 = 1 then .keyexp (fieldLen w) (fieldRsvd w) (fieldBits w)
      else if w.toNat % 16 = 2 then .keyderive (fieldLen w) (fieldRsvd w) (fieldBits w)
      else if w.toNat % 16 = 3 then .encblk (fieldLen w) (fieldRsvd w) (fieldBits w)
      else if w.toNat % 16 = 4 then .ctrseed (fieldLen w) (fieldRsvd w) (fieldBits w)
      else if w.toNat % 16 = 5 then .xorchunk (fieldLen w) (fieldRsvd w) (fieldBits w)
      else if w.toNat % 16 < 8 then .reservedOp6to7 (fieldOp w) (fieldLen w) (fieldRsvd w) (fieldBits w)
      else .reservedOp8to15 (fieldOp w) (fieldLen w) (fieldRsvd w) (fieldBits w)

/-- Decoding the word of a well-formed command gives the command back, with every operand at every value
(R47, R52). -/
def Obligations.DecodeEncodeRoundTrip : Prop :=
  ∀ i : Instr, WellFormed i → decodeWord (encode i) = i

/-- Every word is the word of exactly the command it decodes to, and that command is well-formed: no bit of a word
is dropped and no word is refused (R47, R55). -/
def Obligations.EncodeDecodeRoundTrip : Prop :=
  ∀ w : Word, WellFormed (decodeWord w) ∧ encode (decodeWord w) = w

/-- The assembler's words (R56): for every `bits` and `len`, and the examples of the table. -/
def Obligations.AssemblerWords : Prop :=
  encode asmNop = 0x00000000 ∧ encode asmEncblk = 0x00000003 ∧ encode asmCtrseed = 0x00000004 ∧
  (∀ bits : BitVec 16,
    encode (asmKeyexp bits) = (bits.setWidth 32 <<< 16) ||| 0x1 ∧
    encode (asmKeyderive bits) = (bits.setWidth 32 <<< 16) ||| 0x2 ∧
    fieldRsvd (encode (asmKeyexp bits)) = 0 ∧ fieldRsvd (encode (asmKeyderive bits)) = 0) ∧
  (∀ len : BitVec 5,
    encode (asmXorchunk len) = (len.setWidth 32 <<< 4) ||| 0x5 ∧
    fieldRsvd (encode (asmXorchunk len)) = 0) ∧
  encode (asmKeyexp 128) = 0x00800001 ∧ encode (asmKeyexp 192) = 0x00C00001 ∧
  encode (asmKeyexp 256) = 0x01000001 ∧ encode (asmKeyderive 128) = 0x00800002 ∧
  encode (asmKeyderive 192) = 0x00C00002 ∧ encode (asmKeyderive 256) = 0x01000002 ∧
  encode (asmKeyderive 100) = 0x00640002 ∧ encode (asmXorchunk 16) = 0x00000105 ∧
  encode (asmXorchunk 11) = 0x000000B5 ∧ encode (asmXorchunk 1) = 0x00000015

/-- RSVD and the fields a command does not use have no effect: two words that differ only in RSVD perform
identically (R51), and LEN matters to XORCHUNK alone, BITS to the key commands alone, with the two examples
(R54). -/
def Obligations.IgnoredFieldsHaveNoEffect : Prop :=
  (∀ (w w' : Word) (s : State),
    fieldOp w = fieldOp w' → fieldLen w = fieldLen w' → fieldBits w = fieldBits w' →
    exec (decodeWord w) s = exec (decodeWord w') s) ∧
  (∀ (w w' : Word) (s : State), fieldOp w = fieldOp w' →
    ((fieldOp w).toNat = 5 → fieldLen w = fieldLen w') →
    ((fieldOp w).toNat = 1 ∨ (fieldOp w).toNat = 2 → fieldBits w = fieldBits w') →
    exec (decodeWord w) s = exec (decodeWord w') s) ∧
  (∀ s : State,
    exec (decodeWord 0x00800003) s = exec asmEncblk s ∧
    exec (decodeWord 0x012C00B5) s = exec (asmXorchunk 11) s)

/-! ## The step, acceptance and the busy protocol -/

/-- A step whose perform step is due is exactly the performance of the command in PEND, with nothing around it;
any other step is one interval, in which the next event of the outside world is taken (R43, R45). The word that
`withFetchWord` places is the one the next step performs. The model's own, not the spec's: the perform step comes
when the count `wait` is 0, and any other step counts one interval (DEDUCED, log 2); nothing is performed while the
reset input is asserted (DESIGN CHOICE, log 10); `withFetchWord` stands for an accepted CMD write (DESIGN CHOICE,
log 8). -/
def Obligations.StepPerformsPendingCommand : Prop :=
  (∀ s : State, s.rst = false → s.busy = true → s.wait = 0 → step s = exec (decodeWord s.pend) s) ∧
  (∀ s : State, (s.rst = true ∨ s.busy = false ∨ s.wait ≠ 0) →
    step s = hostTurn { s with wait := s.wait - 1 }) ∧
  (∀ (s : State) (w : Word),
    step (s.withFetchWord 32 w.toNat) = exec (decodeWord w) (s.withFetchWord 32 w.toNat))

/-- Every word written to CMD while BUSY = 0 is accepted, whatever it is, and every word, when performed, is
performed to its end: no word is refused and none raises a fault (R16, R55). The interval and draw counts are the
model's own (log 2). -/
def Obligations.EveryWordIsAcceptedAndPerformed : Prop :=
  ∀ (w : Word) (s : State), s.rst = false → s.busy = false →
    takeEvent (.write 4 0x00 w) s = .next { s with
      pend := w, busy := true, wait := Config.latency w s, draws := s.draws + 1,
      script := s.script.drop 1 } ∧
    ∀ u : State, ∃ t, exec (decodeWord w) u = .next t ∧ t.busy = false

/-- A command stays pending, with its word and all of its inputs as they were, until its perform step or reset:
whatever the host does meanwhile (R18, R43, R45, R136). -/
def Obligations.PendingCommandIsUndisturbed : Prop :=
  ∀ s t : State, s.busy = true → s.rst = false → s.wait ≠ 0 → s.script.head? ≠ some .resetOn →
    step s = .next t →
    t = { s with
      ovr := t.ovr, wait := s.wait - 1, script := t.script, reads := t.reads }

/-- POLL terminates for every latency: the host reads STATUS with BUSY = 1 in each interval until the perform step,
whose effect is that of the command on the state the acceptance left, and its next read lets it go on
(R57, R138). That every latency is a finite number is the model's form of R138's weak fairness (log 2). -/
def Obligations.PollTerminates : Prop :=
  ∀ (s : State) (rest : List Event), s.rst = false → s.busy = true → s.script = .poll :: rest →
    ∃ u, exec (decodeWord s.pend) { s with
          wait := 0, reads := s.reads ++ List.replicate s.wait ⟨0x04, statusWord s⟩ } = .next u ∧
      Host.Core.run core (s.wait + 2) s = .next { u with
        wait := 0, script := rest, reads := u.reads ++ [⟨0x04, statusWord u⟩] }

/-- A host that keeps to the busy protocol never has a write dropped and never ends in a fault, for every latency
(R20, R37, R135). The premises hold of the state after reset with any conforming script. -/
def Obligations.ConformingHostNeverOverruns : Prop :=
  ∀ (k : Nat) (s : State) (b : Bool), conforming b s.script = true → (s.busy = true → b = true) →
    (s.rst = true → s.busy = false) → s.ovr = false →
    ∃ t, Host.Core.run core k s = .next t ∧ t.ovr = false

/-! ## The meanings of the commands -/

/-- NOP (R100): its word, its whole effect, that BUSY drops it like any other write, and the worked example. -/
def Obligations.NopMeaning : Prop :=
  encode asmNop = 0x00000000 ∧
  (∀ (len : BitVec 5) (rsvd : BitVec 7) (bits : BitVec 16) (s : State),
    exec (.nop len rsvd bits) s = .next { s with err := .ok, busy := false }) ∧
  (∀ s : State, s.busy = true → busWrite 0x00 0x00000000 s = { s with ovr := true }) ∧
  (∀ s : State, s.busy = true → statusWord { s with busy := false } = 0x00000010 →
    ∃ t, exec asmNop s = .next t ∧ statusWord t = 0x00000000)

/-- A reserved OP changes nothing but ERR ← ERR_OP, OUTLEN ← 0 and BUSY ← 0 (R53, R119). -/
def Obligations.ReservedOpMeaning : Prop :=
  ∀ (op : BitVec 4) (len : BitVec 5) (rsvd : BitVec 7) (bits : BitVec 16) (s : State),
    exec (.reservedOp6to7 op len rsvd bits) s =
      .next { s with err := .errOp, outLen := 0, busy := false } ∧
    exec (.reservedOp8to15 op len rsvd bits) s =
      .next { s with err := .errOp, outLen := 0, busy := false } ∧
    (∀ w : Word, 6 ≤ w.toNat % 16 → exec (decodeWord w) s =
      .next { s with err := .errOp, outLen := 0, busy := false })

/-- KEYEXP with an accepted BITS loads the schedule of KEYB[0..N), word by word, keeps the words above it, sets NR
and KEYVALID, and changes nothing else (R29, R72). -/
def Obligations.KeyexpLoadsRawSchedule : Prop :=
  ∀ (n : Nat) (len : BitVec 5) (rsvd : BitVec 7) (s : State), n = 16 ∨ n = 24 ∨ n = 32 →
    ∃ t, exec (.keyexp len rsvd (BitVec.ofNat 16 (8 * n))) s = .next t ∧
      (∀ i, i < 4 * (n / 4 + 7) →
        t.sched.toList.getD i default = (keyExpansion ((keyB s).take n)).1.getD i default) ∧
      (∀ i, 4 * (n / 4 + 7) ≤ i → i < 60 →
        t.sched.toList.getD i default = s.sched.toList.getD i default) ∧
      t.nri.toNat = n / 4 + 6 ∧
      t = { s with sched := t.sched, nri := t.nri, keyValid := true, err := .ok, busy := false }

/-- KEYDERIVE with an accepted BITS loads the schedule of the derived key of KEYB[0..N); KEY keeps the raw key
(R26, R29, R89). -/
def Obligations.KeyderiveLoadsDerivedSchedule : Prop :=
  ∀ (n : Nat) (len : BitVec 5) (rsvd : BitVec 7) (s : State), n = 16 ∨ n = 24 ∨ n = 32 →
    ∃ t, exec (.keyderive len rsvd (BitVec.ofNat 16 (8 * n))) s = .next t ∧
      (∀ i, i < 4 * (n / 4 + 7) →
        t.sched.toList.getD i default = (keyExpansion (deriveKey ((keyB s).take n))).1.getD i default) ∧
      (∀ i, 4 * (n / 4 + 7) ≤ i → i < 60 →
        t.sched.toList.getD i default = s.sched.toList.getD i default) ∧
      t.nri.toNat = n / 4 + 6 ∧
      t = { s with sched := t.sched, nri := t.nri, keyValid := true, err := .ok, busy := false }

/-- A key command with any other BITS ends in ERR_BITS with no effect on key or data (R120, R123). -/
def Obligations.KeyCommandsRejectOtherBits : Prop :=
  ∀ (len : BitVec 5) (rsvd : BitVec 7) (bits : BitVec 16) (s : State),
    bits.toNat ≠ 128 → bits.toNat ≠ 192 → bits.toNat ≠ 256 →
    exec (.keyexp len rsvd bits) s = .next { s with err := .errBits, outLen := 0, busy := false } ∧
    exec (.keyderive len rsvd bits) s = .next { s with err := .errBits, outLen := 0, busy := false }

/-- ENCBLK: with a loaded schedule DOUTB is the cipher of DINB, OUTLEN is 16, and nothing else changes (R82);
without one it ends in ERR_NOKEY (R121). -/
def Obligations.EncblkMeaning : Prop :=
  ∀ (len : BitVec 5) (rsvd : BitVec 7) (bits : BitVec 16) (s : State),
    (s.keyValid = true →
      ∃ t, exec (.encblk len rsvd bits) s = .next t ∧
        (∀ i, i < 16 → (doutB t).get i = (cipher (dinB s) s.sched.toList s.nri.toNat).get i) ∧
        t = { s with dout := t.dout, outLen := 16, err := .ok, busy := false }) ∧
    (s.keyValid = false →
      exec (.encblk len rsvd bits) s = .next { s with err := .errNoKey, outLen := 0, busy := false })

/-- CTRSEED: for the value T that `time_ms` shows at this step, whatever it is, NONCEB[c] is T[8c+7:8c] and CTR is
0; KEYVALID, NR, OUTLEN and DOUT stay, and no schedule is needed (R94). The draw count is the model's own (log 1). -/
def Obligations.CtrseedMeaning : Prop :=
  ∀ (len : BitVec 5) (rsvd : BitVec 7) (bits : BitVec 16) (s : State),
    ∃ t, exec (.ctrseed len rsvd bits) s = .next t ∧
      (∀ c, c < 8 → (nonceB t).getD c 0 = (Config.timeMs s.draws).extractLsb' (8 * c) 8) ∧
      ctr t = 0 ∧
      t = { s with
        nonceLo := t.nonceLo, nonceHi := t.nonceHi, ctrLo := 0, ctrHi := 0, err := .ok, busy := false,
        draws := s.draws + 1 }

/-- XORCHUNK with LEN in 1..16 and a loaded schedule: each of the LEN bytes is DINB XOR the keystream byte at the
same place, the bytes above are 0x00, OUTLEN is LEN, CTR goes up by 1 modulo 2^64, and nothing else changes
(R95, R96, R97). -/
def Obligations.XorchunkMeaning : Prop :=
  ∀ (len : BitVec 5) (rsvd : BitVec 7) (bits : BitVec 16) (s : State),
    1 ≤ len.toNat → len.toNat ≤ 16 → s.keyValid = true →
    ∃ t, exec (.xorchunk len rsvd bits) s = .next t ∧
      (∀ i, i < 16 → (doutB t).get i =
        if i < len.toNat then
          (dinB s).get i ^^^ (cipher (counterBlock (nonceB s) (ctr s)) s.sched.toList s.nri.toNat).get i
        else 0x00) ∧
      (ctr t).toNat = ((ctr s).toNat + 1) % 2 ^ 64 ∧
      t = { s with
        dout := t.dout, outLen := len, ctrLo := t.ctrLo, ctrHi := t.ctrHi, err := .ok, busy := false }

/-- XORCHUNK's two errors and their order: a LEN outside 1..16 is ERR_LEN whether or not a schedule is loaded, and
ERR_NOKEY is for an accepted LEN (R121, R122, R124). -/
def Obligations.XorchunkErrors : Prop :=
  ∀ (len : BitVec 5) (rsvd : BitVec 7) (bits : BitVec 16) (s : State),
    ((len.toNat = 0 ∨ 17 ≤ len.toNat) →
      exec (.xorchunk len rsvd bits) s = .next { s with err := .errLen, outLen := 0, busy := false }) ∧
    ((1 ≤ len.toNat ∧ len.toNat ≤ 16) → s.keyValid = false →
      exec (.xorchunk len rsvd bits) s = .next { s with err := .errNoKey, outLen := 0, busy := false })

/-- The effect of an error, of whatever command: ERR holds the code, OUTLEN and BUSY are 0, and nothing else
changes (R123). -/
def Obligations.ErrorChangesNothingElse : Prop :=
  ∀ (i : Instr) (s t : State), exec i s = .next t → t.err ≠ .ok →
    t = { s with err := t.err, outLen := 0, busy := false }

/-- Which code a command reports, and that it reports exactly one (R118, R124). -/
def Obligations.ResultCodeCauses : Prop :=
  ∀ (w : Word) (s : State), ∃ t, exec (decodeWord w) s = .next t ∧
    t.err.number =
      if 6 ≤ (fieldOp w).toNat then 4
      else if (fieldOp w).toNat = 1 ∨ (fieldOp w).toNat = 2 then
        if (fieldBits w).toNat = 128 ∨ (fieldBits w).toNat = 192 ∨ (fieldBits w).toNat = 256 then 0 else 1
      else if (fieldOp w).toNat = 5 ∧ ¬ (1 ≤ (fieldLen w).toNat ∧ (fieldLen w).toNat ≤ 16) then 3
      else if ((fieldOp w).toNat = 3 ∨ (fieldOp w).toNat = 5) ∧ s.keyValid = false then 2
      else 0

/-! ## Frames -/

/-- No command of any kind changes KEY, DIN, OVR, the reset input, the host's script or what it has read
(R20, R26, R27, R125). PEND, which has no meaning after the perform step (R30), keeps the performed word: that clause
is the model's own (DESIGN CHOICE, log 5). -/
def Obligations.NoCommandChangesKeyDinOvr : Prop :=
  ∀ (i : Instr) (s t : State), exec i s = .next t →
    t.key = s.key ∧ t.din = s.din ∧ t.ovr = s.ovr ∧ t.pend = s.pend ∧ t.rst = s.rst ∧ t.wait = s.wait ∧
    t.script = s.script ∧ t.reads = s.reads ∧ t.busy = false

/-- Frame of NOP, KEYEXP, KEYDERIVE and the reserved commands: of the whole window only STATUS reads otherwise
than before, and NOP and the reserved commands leave KEYVALID, NR and SCHED as well
(R53, R72, R89, R100). -/
def Obligations.FrameOfNopKeyAndReserved : Prop :=
  ∀ (op : BitVec 4) (len : BitVec 5) (rsvd : BitVec 7) (bits : BitVec 16) (s t : State),
    ((exec (.nop len rsvd bits) s = .next t ∨ exec (.keyexp len rsvd bits) s = .next t ∨
        exec (.keyderive len rsvd bits) s = .next t ∨ exec (.reservedOp6to7 op len rsvd bits) s = .next t ∨
        exec (.reservedOp8to15 op len rsvd bits) s = .next t) →
      (∀ off : BitVec 7, off ≠ 0x04 → busRead off t = busRead off s) ∧ t.key = s.key ∧
      t.draws = s.draws) ∧
    ((exec (.nop len rsvd bits) s = .next t ∨ exec (.reservedOp6to7 op len rsvd bits) s = .next t ∨
        exec (.reservedOp8to15 op len rsvd bits) s = .next t) →
      t.keyValid = s.keyValid ∧ t.nri = s.nri ∧ t.sched = s.sched)

/-- Frame of ENCBLK, CTRSEED and XORCHUNK: besides STATUS only DOUT, only NONCE and CTR, only DOUT and CTR read
otherwise than before; KEY, SCHED, NR and KEYVALID stay (R82, R94, R95). -/
def Obligations.FrameOfBlockAndStream : Prop :=
  ∀ (len : BitVec 5) (rsvd : BitVec 7) (bits : BitVec 16) (s t : State),
    (exec (.encblk len rsvd bits) s = .next t →
      ∀ off : BitVec 7, off ≠ 0x04 → (off.toNat < 0x50 ∨ 0x60 ≤ off.toNat) → busRead off t = busRead off s) ∧
    (exec (.ctrseed len rsvd bits) s = .next t →
      t.outLen = s.outLen ∧
      ∀ off : BitVec 7, off ≠ 0x04 → (off.toNat < 0x08 ∨ 0x18 ≤ off.toNat) → busRead off t = busRead off s) ∧
    (exec (.xorchunk len rsvd bits) s = .next t →
      ∀ off : BitVec 7, off ≠ 0x04 → off ≠ 0x08 → off ≠ 0x0C → (off.toNat < 0x50 ∨ 0x60 ≤ off.toNat) →
        busRead off t = busRead off s) ∧
    ((exec (.encblk len rsvd bits) s = .next t ∨ exec (.ctrseed len rsvd bits) s = .next t ∨
        exec (.xorchunk len rsvd bits) s = .next t) →
      t.key = s.key ∧ t.sched = s.sched ∧ t.nri = s.nri ∧ t.keyValid = s.keyValid)

/-- The block index changes by nothing but a successful XORCHUNK (by exactly 1), CTRSEED (to 0), a host write of
CTR_LO or CTR_HI, and reset (to 0) (R24, R97). -/
def Obligations.OnlyTheseEventsMoveCtr : Prop :=
  ∀ s t : State, step s = .next t → ctr t ≠ ctr s →
    (performDue s = true ∧ (fieldOp s.pend).toNat = 5 ∧ t.err = .ok ∧ ctr t = ctr s + 1) ∨
    (performDue s = true ∧ (fieldOp s.pend).toNat = 4 ∧ ctr t = 0) ∨
    (performDue s = false ∧ s.busy = false ∧
      ∃ off v, s.script.head? = some (.write 4 off v) ∧ (off = 0x08 ∨ off = 0x0C)) ∨
    (performDue s = false ∧ s.script.head? = some .resetOn ∧ ctr t = 0)

/-- KEYVALID is set only by a successful key command and cleared only by reset, and SCHED and NRI change by those
two alone (R19, R22, R29, R137). -/
def Obligations.OnlyKeyCommandsAndResetMoveTheSchedule : Prop :=
  ∀ s t : State, step s = .next t →
    (t.keyValid = s.keyValid ∧ t.sched = s.sched ∧ t.nri = s.nri) ∨
    (performDue s = true ∧ ((fieldOp s.pend).toNat = 1 ∨ (fieldOp s.pend).toNat = 2) ∧ t.err = .ok ∧
      t.keyValid = true) ∨
    (performDue s = false ∧ s.script.head? = some .resetOn ∧ t.keyValid = false ∧ t.nri = 0)

/-! ## Tables, field arithmetic and word operations -/

/-- `xtime` is doubling that drops bit 8 before the reduction, with the examples (R59), and the round constants are
its powers: rc_1 = 0x01, rc_{j+1} = xtime(rc_j), bytes 1..3 are 0 (R63). -/
def Obligations.XtimeAndRoundConstants : Prop :=
  (∀ b : Byte, (xtime b).toNat = (b.toNat * 2 % 256) ^^^ (if 128 ≤ b.toNat then 0x1B else 0x00)) ∧
  xtime 0x57 = 0xAE ∧ xtime 0xAE = 0x47 ∧ xtime 0x80 = 0x1B ∧ xtime 0xFF = 0xE5 ∧ xtime 0x00 = 0x00 ∧
  rcon 1 = ⟨0x01, 0x00, 0x00, 0x00⟩ ∧
  (∀ j, 1 ≤ j → j < 10 → (rcon (j + 1)).b0 = xtime (rcon j).b0) ∧
  (∀ j, 1 ≤ j → j ≤ 10 → (rcon j).b1 = 0 ∧ (rcon j).b2 = 0 ∧ (rcon j).b3 = 0)

/-- `•` is the multiplication of GF(2^8): it distributes over XOR, commutes with doubling and has 0x01 as its
unit, which fixes it (R60). -/
def Obligations.GmulIsFieldMultiplication : Prop :=
  (∀ a b c : Byte, gmul a (b ^^^ c) = gmul a b ^^^ gmul a c ∧ gmul (a ^^^ b) c = gmul a c ^^^ gmul b c) ∧
  (∀ a b : Byte, gmul a (xtime b) = xtime (gmul a b) ∧ gmul a b = gmul b a) ∧
  (∀ a : Byte, gmul 0x01 a = a ∧ gmul 0x02 a = xtime a ∧ gmul 0x03 a = xtime a ^^^ a) ∧
  gmul 0x57 0x83 = 0xC1 ∧ gmul 0x57 0x13 = 0xFE

/-- The table equals its definition: the affine map of the multiplicative inverse, which is unique (R66). -/
def Obligations.SboxIsAffineOfInverse : Prop :=
  sbox 0x00 = sboxAffine 0x00 ∧
  (∀ x : Byte, x ≠ 0 →
    ∃ y, gmul x y = 0x01 ∧ (∀ z, gmul x z = 0x01 → z = y) ∧ sbox x = sboxAffine y) ∧
  (∀ (y : Byte) (k : Nat), k < 8 → (sboxAffine y).getLsbD k =
    (y.getLsbD k ^^ y.getLsbD ((k + 4) % 8) ^^ y.getLsbD ((k + 5) % 8) ^^ y.getLsbD ((k + 6) % 8) ^^
      y.getLsbD ((k + 7) % 8) ^^ (0x63#8).getLsbD k))

/-- The substitution table is a permutation of the byte values and has no fixed point
(R62; 95_test_vectors.md V12). -/
def Obligations.SboxIsPermutation : Prop :=
  (∀ x y : Byte, sbox x = sbox y → x = y) ∧ (∀ y : Byte, ∃ x, sbox x = y) ∧ (∀ x : Byte, sbox x ≠ x)

/-! ## Key schedule -/

/-- KeyExpansion (R67 to R70): the number of rounds, the number of words, the first Nk words, and the recurrence
with its three cases. -/
def Obligations.KeyExpansionRecurrence : Prop :=
  ∀ (key : List Byte) (nk : Nat), nk = 4 ∨ nk = 6 ∨ nk = 8 → key.length = 4 * nk →
    (keyExpansion key).2 = nk + 6 ∧ (keyExpansion key).1.length = 4 * (nk + 7) ∧
    (∀ i j, i < nk → j < 4 → ((keyExpansion key).1.getD i default).get j = key.getD (4 * i + j) 0) ∧
    (∀ i, nk ≤ i → i < 4 * (nk + 7) →
      (keyExpansion key).1.getD i default =
        ((keyExpansion key).1.getD (i - nk) default).xor
          (if i % nk = 0 then
            (subWord (rotWord ((keyExpansion key).1.getD (i - 1) default))).xor (rcon (i / nk))
          else if nk = 8 ∧ i % nk = 4 then subWord ((keyExpansion key).1.getD (i - 1) default)
          else (keyExpansion key).1.getD (i - 1) default)) ∧
    (∀ i, nk ≤ i → i < 4 * (nk + 7) → i % nk = 0 →
      1 ≤ i / nk ∧ i / nk ≤ 10 ∧ (rcon (i / nk)).b1 = 0 ∧ (rcon (i / nk)).b2 = 0 ∧ (rcon (i / nk)).b3 = 0)

/-! ## Block transform -/

/-- The four transforms of the State, byte by byte: the round key's pairing (R76), SubBytes (R77), ShiftRows (R78)
and MixColumns as the matrix product with `•` (R79); and the layout of the flat block (R75). -/
def Obligations.RoundTransformsByteByByte : Prop :=
  ∀ (s : Block) (w : List SWord) (l : List Byte) (k r c : Nat), r < 4 → c < 4 →
    (addRoundKey s (roundKey w k)).at r c = s.at r c ^^^ (w.getD (4 * k + c) default).get r ∧
    (subBytes s).at r c = sbox (s.at r c) ∧
    (shiftRows s).at r c = s.at r ((c + r) % 4) ∧
    (mixColumns s).at r c =
      gmul 0x02 (s.at r c) ^^^ gmul 0x03 (s.at ((r + 1) % 4) c) ^^^ s.at ((r + 2) % 4) c ^^^
        s.at ((r + 3) % 4) c ∧
    (Block.ofBytes l).at r c = l.getD (4 * c + r) 0 ∧
    s.bytes.getD (4 * c + r) 0 = s.at r c

/-- Cipher (R74, R80): the rounds in order, with MixColumns in every round but the last, stated
by the sequence of the State after each round, which these equations fix. -/
def Obligations.CipherRunsItsRounds : Prop :=
  ∀ (input : Block) (w : List SWord) (nr : Nat),
    ∃ st : Nat → Block,
      st 0 = addRoundKey input (roundKey w 0) ∧
      (∀ round, 1 ≤ round → round < nr →
        st round = addRoundKey (mixColumns (shiftRows (subBytes (st (round - 1))))) (roundKey w round)) ∧
      cipher input w nr = addRoundKey (shiftRows (subBytes (st (nr - 1)))) (roundKey w nr)

/-- Cipher depends on the schedule only through words 0..4·Nr+3, so the stale words that a key command leaves
above them have no effect on ENCBLK or XORCHUNK (R29, R83). -/
def Obligations.StaleScheduleWordsAreUnobservable : Prop :=
  (∀ (input : Block) (w w' : List SWord) (nr : Nat),
    (∀ i, i < 4 * (nr + 1) → w.getD i default = w'.getD i default) → cipher input w nr = cipher input w' nr) ∧
  (∀ (s : State) (v : Vector SWord 60) (len : BitVec 5) (rsvd : BitVec 7) (bits : BitVec 16),
    (∀ i, i < 4 * (s.nri.toNat + 1) → v.toList.getD i default = s.sched.toList.getD i default) →
    ∃ t t', exec (.encblk len rsvd bits) s = .next t ∧
      exec (.encblk len rsvd bits) { s with sched := v } = .next { t with sched := v } ∧
      exec (.xorchunk len rsvd bits) s = .next t' ∧
      exec (.xorchunk len rsvd bits) { s with sched := v } = .next { t' with sched := v })

/-! ## Key derivation, counter block, stream -/

/-- DeriveKey (R85, R87, R88): N bytes, the first 16 the encryption of the key's first 16 bytes under its own
schedule, the rest the first bytes again. -/
def Obligations.DeriveKeyWrapsAround : Prop :=
  ∀ raw : List Byte, raw.length = 16 ∨ raw.length = 24 ∨ raw.length = 32 →
    (deriveKey raw).length = raw.length ∧
    (deriveKey raw).take 16 =
      (cipher (Block.ofFn fun i => raw.getD i 0) (keyExpansion raw).1 (raw.length / 4 + 6)).bytes ∧
    (∀ i, 16 ≤ i → i < raw.length → (deriveKey raw).getD i 0 = (deriveKey raw).getD (i - 16) 0)

/-- The vectors the rules give as numbers: the key expansions of R73, the conformance vector of R84 and the derived
keys of the all-zero raw keys of R90. -/
def Obligations.VectorsOfTheRules : Prop :=
  ((keyExpansion [0x2b, 0x7e, 0x15, 0x16, 0x28, 0xae, 0xd2, 0xa6, 0xab, 0xf7, 0x15, 0x88, 0x09, 0xcf, 0x4f,
      0x3c]).1.drop 4).take 4 =
    [⟨0xa0, 0xfa, 0xfe, 0x17⟩, ⟨0x88, 0x54, 0x2c, 0xb1⟩, ⟨0x23, 0xa3, 0x39, 0x39⟩, ⟨0x2a, 0x6c, 0x76, 0x05⟩] ∧
  (keyExpansion [0x2b, 0x7e, 0x15, 0x16, 0x28, 0xae, 0xd2, 0xa6, 0xab, 0xf7, 0x15, 0x88, 0x09, 0xcf, 0x4f,
      0x3c]).1.drop 40 =
    [⟨0xd0, 0x14, 0xf9, 0xa8⟩, ⟨0xc9, 0xee, 0x25, 0x89⟩, ⟨0xe1, 0x3f, 0x0c, 0xc8⟩, ⟨0xb6, 0x63, 0x0c, 0xa6⟩] ∧
  (keyExpansion ((List.range 24).map (BitVec.ofNat 8))).1.drop 48 =
    [⟨0xa4, 0x97, 0x0a, 0x33⟩, ⟨0x1a, 0x78, 0xdc, 0x09⟩, ⟨0xc4, 0x18, 0xc2, 0x71⟩, ⟨0xe3, 0xa4, 0x1d, 0x5d⟩] ∧
  (keyExpansion ((List.range 32).map (BitVec.ofNat 8))).1.drop 56 =
    [⟨0x24, 0xfc, 0x79, 0xcc⟩, ⟨0xbf, 0x09, 0x79, 0xe9⟩, ⟨0x37, 0x1a, 0xc2, 0x3c⟩, ⟨0x6d, 0x68, 0xde, 0x36⟩] ∧
  cipher (Block.ofBytes (List.replicate 16 0)) (keyExpansion (List.replicate 16 0)).1
      (keyExpansion (List.replicate 16 0)).2 =
    Block.ofBytes [0x66, 0xe9, 0x4b, 0xd4, 0xef, 0x8a, 0x2c, 0x3b, 0x88, 0x4c, 0xfa, 0x59, 0xca, 0x34, 0x2b, 0x2e] ∧
  deriveKey (List.replicate 16 0) =
    [0x66, 0xe9, 0x4b, 0xd4, 0xef, 0x8a, 0x2c, 0x3b, 0x88, 0x4c, 0xfa, 0x59, 0xca, 0x34, 0x2b, 0x2e] ∧
  deriveKey (List.replicate 24 0) =
    [0xaa, 0xe0, 0x69, 0x92, 0xac, 0xbf, 0x52, 0xa3, 0xe8, 0xf4, 0xa9, 0x6e, 0xc9, 0x30, 0x0b, 0xd7,
     0xaa, 0xe0, 0x69, 0x92, 0xac, 0xbf, 0x52, 0xa3] ∧
  deriveKey (List.replicate 32 0) =
    [0xdc, 0x95, 0xc0, 0x78, 0xa2, 0x40, 0x89, 0x89, 0xad, 0x48, 0xa2, 0x14, 0x92, 0x84, 0x20, 0x87,
     0xdc, 0x95, 0xc0, 0x78, 0xa2, 0x40, 0x89, 0x89, 0xad, 0x48, 0xa2, 0x14, 0x92, 0x84, 0x20, 0x87]

/-- The counter block (R91) and the nonce of a time value (R92), byte by byte, with R91's example. -/
def Obligations.CounterBlockLayout : Prop :=
  (∀ (nonce : List Byte) (b : BitVec 64),
    (∀ k, k < 8 → (counterBlock nonce b).get k = nonce.getD k 0) ∧
    (∀ c, c < 4 → (counterBlock nonce b).get (15 - c) = b.extractLsb' (8 * c) 8) ∧
    (∀ c, c < 4 → (counterBlock nonce b).get (15 - c - 4) = b.extractLsb' (32 + 8 * c) 8)) ∧
  (∀ t : BitVec 64, (nonceOfTime t).length = 8 ∧
    ∀ c, c < 8 → (nonceOfTime t).getD c 0 = t.extractLsb' (8 * c) 8) ∧
  (counterBlock (List.replicate 8 0) 0x0102030405060708).bytes =
    [0, 0, 0, 0, 0, 0, 0, 0, 0x01, 0x02, 0x03, 0x04, 0x05, 0x06, 0x07, 0x08]

/-- XORCHUNK applied to its own output with the same nonce and block index gives the chunk back (R98). -/
def Obligations.XorchunkIsItsOwnInverse : Prop :=
  ∀ (len : BitVec 5) (rsvd : BitVec 7) (bits : BitVec 16) (s : State),
    1 ≤ len.toNat → len.toNat ≤ 16 → s.keyValid = true →
    ∃ t u, exec (.xorchunk len rsvd bits) s = .next t ∧
      exec (.xorchunk len rsvd bits) { t with din := t.dout, ctrLo := s.ctrLo, ctrHi := s.ctrHi } = .next u ∧
      ∀ i, i < len.toNat → (doutB u).get i = (dinB s).get i

/-- XORCHUNK does not read DINB[LEN..16), and no command but KEYEXP and KEYDERIVE reads KEY (R26, R95). -/
def Obligations.UnreadInputsHaveNoEffect : Prop :=
  (∀ (len : BitVec 5) (rsvd : BitVec 7) (bits : BitVec 16) (s : State) (d : Vector Word 4),
    (∀ i, i < len.toNat → (blockOfRegs d).get i = (dinB s).get i) →
    ∃ t, exec (.xorchunk len rsvd bits) s = .next t ∧
      exec (.xorchunk len rsvd bits) { s with din := d } = .next { t with din := d }) ∧
  (∀ (i : Instr) (s : State) (k : Vector Word 8), opcode i ≠ 0x1 → opcode i ≠ 0x2 →
    ∃ t, exec i s = .next t ∧ exec i { s with key := k } = .next { t with key := k }) ∧
  (∀ (len : BitVec 5) (rsvd : BitVec 7) (n : Nat) (s : State) (k : Vector Word 8), n = 16 ∨ n = 24 ∨ n = 32 →
    (keyB { s with key := k }).take n = (keyB s).take n →
    ∃ t t', exec (.keyexp len rsvd (BitVec.ofNat 16 (8 * n))) s = .next t ∧
      exec (.keyexp len rsvd (BitVec.ofNat 16 (8 * n))) { s with key := k } = .next { t with key := k } ∧
      exec (.keyderive len rsvd (BitVec.ofNat 16 (8 * n))) s = .next t' ∧
      exec (.keyderive len rsvd (BitVec.ofNat 16 (8 * n))) { s with key := k } = .next { t' with key := k })

/-! ## The register window -/

/-- The layout of STATUS (R17): each field in its bits, and every reserved bit 0. -/
def Obligations.StatusLayout : Prop :=
  ∀ s : State,
    (statusWord s).getLsbD 0 = s.busy ∧ (statusWord s).getLsbD 1 = s.keyValid ∧
    (statusWord s).getLsbD 2 = s.ovr ∧ (statusWord s).getLsbD 3 = false ∧
    (statusWord s).extractLsb' 4 4 = s.err.number ∧ (statusWord s).extractLsb' 8 4 = s.nri ∧
    (statusWord s).extractLsb' 12 4 = 0#4 ∧ (statusWord s).extractLsb' 16 5 = s.outLen ∧
    (statusWord s).extractLsb' 21 11 = 0#11

/-- What a read of every aligned offset returns (R15, R38, R39). -/
def Obligations.BusReadTable : Prop :=
  ∀ (s : State),
    (∀ off : BitVec 7, off.toNat % 4 = 0 →
      (off = 0x00 ∨ off = 0x18 ∨ off = 0x1C ∨ (0x20 ≤ off.toNat ∧ off.toNat < 0x40) ∨ 0x60 ≤ off.toNat) →
      busRead off s = 0x00000000) ∧
    busRead 0x04 s = statusWord s ∧
    busRead 0x08 s = s.ctrLo ∧ busRead 0x0C s = s.ctrHi ∧
    busRead 0x10 s = s.nonceLo ∧ busRead 0x14 s = s.nonceHi ∧
    (∀ j : Fin 4, busRead (BitVec.ofNat 7 (0x40 + 4 * j.val)) s = s.din[j]) ∧
    (∀ j : Fin 4, busRead (BitVec.ofNat 7 (0x50 + 4 * j.val)) s = s.dout[j])

/-- What a write does at every aligned offset while BUSY = 0 (R39): CMD accepts, the read-write registers and KEY
take the value and nothing else changes, and a write to DOUT or a reserved offset has no effect (R38). The CMD
clause's interval count and draw count are the model's own (DEDUCED, log 2). -/
def Obligations.BusWriteWhileIdle : Prop :=
  ∀ (s : State) (v : Word), s.busy = false →
    busWrite 0x00 v s =
      { s with pend := v, busy := true, wait := Config.latency v s, draws := s.draws + 1 } ∧
    busWrite 0x08 v s = { s with ctrLo := v } ∧ busWrite 0x0C v s = { s with ctrHi := v } ∧
    busWrite 0x10 v s = { s with nonceLo := v } ∧ busWrite 0x14 v s = { s with nonceHi := v } ∧
    (∀ j : Fin 8, busWrite (BitVec.ofNat 7 (0x20 + 4 * j.val)) v s = { s with key := s.key.set j v }) ∧
    (∀ j : Fin 4, busWrite (BitVec.ofNat 7 (0x40 + 4 * j.val)) v s = { s with din := s.din.set j v }) ∧
    (∀ off : BitVec 7, off.toNat % 4 = 0 →
      (off = 0x18 ∨ off = 0x1C ∨ 0x50 ≤ off.toNat) → busWrite off v s = s)

/-- A write of any register but STATUS while BUSY = 1 is dropped and sets OVR (R20, R38); a write of STATUS is
always accepted, clears OVR when its bit 2 is 1, and changes nothing else (R17). -/
def Obligations.WritesWhileBusyAndToStatus : Prop :=
  ∀ (s : State) (v : Word),
    (∀ off : BitVec 7, off.toNat % 4 = 0 → off ≠ 0x04 → s.busy = true →
      busWrite off v s = { s with ovr := true }) ∧
    busWrite 0x04 v s = { s with ovr := s.ovr && !v.getLsbD 2 }

/-- Byte lanes (R35): byte k of each group lies in register k/4, bits 8(k mod 4)+7..8(k mod 4), and CTR is
CTR_HI ++ CTR_LO; with the example of the key text "0123456789ABCDEF". -/
def Obligations.ByteLanes : Prop :=
  (∀ (s : State) (j : Fin 8) (k : Nat), k < 4 →
    (keyB s).getD (4 * j.val + k) 0 = s.key[j].extractLsb' (8 * k) 8) ∧
  (∀ (s : State) (j : Fin 4) (k : Nat), k < 4 →
    (dinB s).get (4 * j.val + k) = s.din[j].extractLsb' (8 * k) 8 ∧
    (doutB s).get (4 * j.val + k) = s.dout[j].extractLsb' (8 * k) 8) ∧
  (∀ (s : State) (k : Nat), k < 4 →
    (nonceB s).getD k 0 = s.nonceLo.extractLsb' (8 * k) 8 ∧
    (nonceB s).getD (4 + k) 0 = s.nonceHi.extractLsb' (8 * k) 8) ∧
  (∀ s : State, (ctr s).toNat = s.ctrHi.toNat * 2 ^ 32 + s.ctrLo.toNat) ∧
  (∀ s : State, s.key = #v[0x33323130, 0x37363534, 0x42413938, 0x46454443, 0, 0, 0, 0] →
    (keyB s).take 16 = (List.range 10).map (fun i => BitVec.ofNat 8 (0x30 + i)) ++
      (List.range 6).map (fun i => BitVec.ofNat 8 (0x41 + i)))

/-- An access that is not 32 bits wide at a multiple of 4 is a bus error of the host's step, also while a command is
pending or, by the model's choice (log 7), while reset is asserted; any other read changes nothing but what the host
has read, in every state of the block (R37, R41, R126). -/
def Obligations.BusErrorsAndReadsWithoutSideEffect : Prop :=
  ∀ (s : State) (off : BitVec 7) (es : List Event), performDue s = false →
    (∀ bytes : Nat, (bytes ≠ 4 ∨ off.toNat % 4 ≠ 0) → s.script = .read bytes off :: es →
      step s = .fault (.busError off)) ∧
    (∀ (bytes : Nat) (v : Word), (bytes ≠ 4 ∨ off.toNat % 4 ≠ 0) → s.script = .write bytes off v :: es →
      step s = .fault (.busError off)) ∧
    (off.toNat % 4 = 0 → s.script = .read 4 off :: es →
      step s = .next { s with
        wait := s.wait - 1, script := es,
        reads := s.reads ++ [⟨off, if s.rst then 0 else busRead off s⟩] })

/-- Host addresses (R34): the window is BASE .. BASE + 0x7F, BASE is a multiple of 0x80, each address in it selects
the offset address − BASE, and no address outside it selects one. The width of host addresses is left open (log 3). -/
def Obligations.WindowAddresses : Prop :=
  Config.base % 0x80 = 0 ∧
  (∀ off : BitVec 7, offsetOf (addressOf off) = some off) ∧
  (∀ (addr : Nat) (off : BitVec 7), offsetOf addr = some off → addr = Config.base + off.toNat) ∧
  (∀ addr : Nat, (addr < Config.base ∨ Config.base + 0x80 ≤ addr) → offsetOf addr = none) ∧
  (∀ (off : BitVec 7) (bytes : Nat) (v : Word),
    memReadEvent (addressOf off) bytes = some (.read bytes off) ∧
    memWriteEvent (addressOf off) bytes v = some (.write bytes off v))

/-! ## Reset -/

/-- The state after reset (R131): every register reads 0, and the internal state is 0. -/
def Obligations.ResetValues : Prop :=
  (∀ off : BitVec 7, off.toNat % 4 = 0 → busRead off State.reset = 0x00000000) ∧
  State.reset.busy = false ∧ State.reset.keyValid = false ∧ State.reset.ovr = false ∧
  State.reset.err = .ok ∧ State.reset.nri = 0 ∧ State.reset.outLen = 0 ∧ ctr State.reset = 0 ∧
  (∀ j : Fin 8, State.reset.key[j] = 0) ∧ (∀ j : Fin 60, State.reset.sched[j] = ⟨0, 0, 0, 0⟩)

/-- Assertion of reset, at any point before the perform step, gives every piece of the engine's state its reset
value and discards the pending command; while reset is asserted a host access has no effect and a read returns 0
(R131, R132). The model's own, not the spec's (DESIGN CHOICE): the word that the discarded PEND leaves (log 5), the
interval count of 0 (log 6), and reset as a level that events set and clear (log 10). -/
def Obligations.ResetDiscardsThePendingCommand : Prop :=
  (∀ (s : State) (es : List Event), performDue s = false → s.script = .resetOn :: es →
    step s = .next { State.reset with rst := true, draws := s.draws, script := es, reads := s.reads }) ∧
  (∀ (s : State) (off : BitVec 7) (v : Word), s.rst = true → off.toNat % 4 = 0 →
    takeEvent (.write 4 off v) s = .next { s with script := s.script.drop 1 } ∧
    takeEvent (.read 4 off) s =
      .next { s with script := s.script.drop 1, reads := s.reads ++ [⟨off, 0x00000000⟩] })

/-! ## The end of a run -/

/-- The end of a run (R142): it is over exactly when no access of the host is still to come and no command is
pending. From then on every step goes on, the run stays over and the host's reads stay as they are, and the
observation stays too unless the reset input is asserted. The list of events is the model's own
(DESIGN CHOICE, log 4). -/
def Obligations.EndedRunStaysEnded : Prop :=
  (∀ s : State, runEnded s = true ↔
    (s.busy = false ∧ ∀ e ∈ s.script, e = .idle ∨ e = .resetOn ∨ e = .resetOff)) ∧
  (∀ s : State, runEnded s = true →
    ∃ t, step s = .next t ∧ runEnded t = true ∧ t.reads = s.reads ∧
      (s.script.head? ≠ some .resetOn → observation t = observation s))

/-- The observation of a run fixes the final register state (R142): two states with the same observation agree in
every register of R13 but PEND, those among them that no host read shows, and every offset reads the same. -/
def Obligations.ObservationFixesTheRegisters : Prop :=
  ∀ s t : State, observation s = observation t →
    t = { s with pend := t.pend, rst := t.rst, wait := t.wait, draws := t.draws, script := t.script } ∧
    ∀ off : BitVec 7, busRead off t = busRead off s

/-! ## Invariants -/

/-- The invariant holds at reset. -/
def Obligations.ResetMeetsTheInvariant : Prop := MachineInv State.reset

/-- Every step keeps the invariant: the status fields stay legal, KEYVALID means that SCHED holds the complete
expansion of some key with the NR that STATUS shows, nothing is in DOUT before a key was loaded, and an asserted
reset holds every register at its reset value (R17, R19, R22, R23, R29, R131, R132). -/
def Obligations.StepKeepsTheInvariant : Prop :=
  ∀ s t : State, MachineInv s → step s = .next t → MachineInv t

/-! ## The host calls -/

/-- The codec (R103, R104): Unhex undoes Hex, and Unhex reads upper-case digits as lower-case ones. -/
def Obligations.HexRoundTrip : Prop :=
  (∀ s : List Byte, unhex (hex s) = some s ∧ (hex s).length = 2 * s.length) ∧
  (∀ t : Text, (unhex t).isSome = true ↔
    (t.length % 2 = 0 ∧ ∀ c ∈ t, (0x30 ≤ c ∧ c ≤ 0x39) ∨ (0x61 ≤ c ∧ c ≤ 0x66) ∨ (0x41 ≤ c ∧ c ≤ 0x46))) ∧
  (∀ t : Text, unhex (t.map fun c => if 0x61 ≤ c ∧ c ≤ 0x66 then c - 0x20 else c) = unhex t)

/-- The chunks of a message (R99): their number, the length of each, and that they are the message. -/
def Obligations.ChunksPartitionTheMessage : Prop :=
  ∀ p : List Byte,
    (chunksOf p).length = (p.length + 15) / 16 ∧ (chunksOf p).flatten = p ∧
    (∀ b, b + 1 < (chunksOf p).length → ((chunksOf p).getD b []).length = 16) ∧
    (∀ c ∈ chunksOf p, 1 ≤ c.length ∧ c.length ≤ 16)

/-- The form of an accepted `encrypt` result (R108, R109): it is well-formed, has 16 + ceil(L/16) + 2L characters,
begins with the 16-character nonce, and is the nonce alone for the empty message. -/
def Obligations.CipherTextForm : Prop :=
  ∀ (raw p : List Byte) (t : BitVec 64),
    cipherTextOk (encryptBytes raw p t) = true ∧
    (encryptBytes raw p t).length = 16 + (p.length + 15) / 16 + 2 * p.length ∧
    (encryptBytes raw p t).take 16 = hex (nonceOfTime t) ∧
    encryptBytes raw [] t = hex (nonceOfTime t)

/-- Which calls have no plain result (R102, R105, R106, R113, R124, R127, R128): an invalid `bits` gives the empty
text whatever else is wrong; then a bad key text is refused; then a bad message text is refused and a malformed
ciphertext is a fault; and every other call has a result. -/
def Obligations.CallChecksInOrder : Prop :=
  ∀ (p k : Text) (bits : Int) (t : BitVec 64),
    (bits ≠ 128 → bits ≠ 192 → bits ≠ 256 → encrypt p k bits t = .next [] ∧ decrypt p k bits = .next []) ∧
    ((bits = 128 ∨ bits = 192 ∨ bits = 256) →
      (((k.length < bits.toNat / 8 ∨ ∃ c ∈ k.take (bits.toNat / 8), 255 < c) →
        encrypt p k bits t = .refused .invalidText ∧ decrypt p k bits = .refused .invalidText) ∧
      (bits.toNat / 8 ≤ k.length → (∀ c ∈ k.take (bits.toNat / 8), c ≤ 255) →
        ((∃ c ∈ p, 255 < c) → encrypt p k bits t = .refused .invalidText) ∧
        ((∀ c ∈ p, c ≤ 255) → ∃ r, encrypt p k bits t = .next r) ∧
        (cipherTextOk p = false → decrypt p k bits = .fault (.malformedCiphertext p)) ∧
        (cipherTextOk p = true → ∃ r, decrypt p k bits = .next r))))

/-- Round trip (R114): what `encrypt` gives, at whatever time, `decrypt` turns back into the plaintext. -/
def Obligations.DecryptUndoesEncrypt : Prop :=
  ∀ (p k c : Text) (bits : Int) (t : BitVec 64), bits = 128 ∨ bits = 192 ∨ bits = 256 →
    encrypt p k bits t = .next c → decrypt c k bits = .next p

/-- `encrypt` as a function of the engine's rules agrees with the register sequence of R107: run from any idle state
for as long as it takes, for every latency, the sequence ends, and what the host makes of its reads is the call's
result at the time that CTRSEED's perform step saw (R101, R107): the third draw of the sequence (logs 1 and 2). -/
def Obligations.EncryptAgreesWithHostSequence : Prop :=
  ∀ (s : State) (p k : Text) (bits : Int),
    s.busy = false → s.rst = false → bits = 128 ∨ bits = 192 ∨ bits = 256 →
    bits.toNat / 8 ≤ k.length → (∀ c ∈ k.take (bits.toNat / 8), c ≤ 255) → (∀ c ∈ p, c ≤ 255) →
    s.script = encryptEvents (keyTextBytes (bits.toNat / 8) k) (textBytes p) →
    ∃ (n : Nat) (u : State) (new : List HostRead),
      Host.Core.run core n s = .next u ∧ runEnded u = true ∧ u.script = [] ∧ u.reads = s.reads ++ new ∧
      encrypt p k bits (Config.timeMs (s.draws + 2)) = .next (encryptReply (textBytes p) new)

/-- `decrypt` as a function of the engine's rules agrees with the register sequence of R111, for every latency
(R101, R111, R112). -/
def Obligations.DecryptAgreesWithHostSequence : Prop :=
  ∀ (s : State) (c k : Text) (bits : Int),
    s.busy = false → s.rst = false → bits = 128 ∨ bits = 192 ∨ bits = 256 →
    bits.toNat / 8 ≤ k.length → (∀ x ∈ k.take (bits.toNat / 8), x ≤ 255) → cipherTextOk c = true →
    s.script = decryptEvents (keyTextBytes (bits.toNat / 8) k) c →
    ∃ (n : Nat) (u : State) (new : List HostRead),
      Host.Core.run core n s = .next u ∧ runEnded u = true ∧ u.script = [] ∧ u.reads = s.reads ++ new ∧
      decrypt c k bits = .next (decryptReply c new)
end

