-- ==== Sys2Proof/Laws/State.lean ====
section
/-!
SUPPORT. What each named operation makes of each field of State: one equation per field, so that no later proof
unfolds a record update.
-/

namespace Sys2Proof.Machine

/-! ### complete -/

@[simp] theorem complete_busy (s : State) : (complete s).busy = false := rfl
@[simp] theorem complete_keyValid (s : State) : (complete s).keyValid = s.keyValid := rfl
@[simp] theorem complete_ovr (s : State) : (complete s).ovr = s.ovr := rfl
@[simp] theorem complete_err (s : State) : (complete s).err = .ok := rfl
@[simp] theorem complete_outLen (s : State) : (complete s).outLen = s.outLen := rfl
@[simp] theorem complete_ctrLo (s : State) : (complete s).ctrLo = s.ctrLo := rfl
@[simp] theorem complete_ctrHi (s : State) : (complete s).ctrHi = s.ctrHi := rfl
@[simp] theorem complete_nonceLo (s : State) : (complete s).nonceLo = s.nonceLo := rfl
@[simp] theorem complete_nonceHi (s : State) : (complete s).nonceHi = s.nonceHi := rfl
@[simp] theorem complete_key (s : State) : (complete s).key = s.key := rfl
@[simp] theorem complete_din (s : State) : (complete s).din = s.din := rfl
@[simp] theorem complete_dout (s : State) : (complete s).dout = s.dout := rfl
@[simp] theorem complete_sched (s : State) : (complete s).sched = s.sched := rfl
@[simp] theorem complete_nri (s : State) : (complete s).nri = s.nri := rfl
@[simp] theorem complete_pend (s : State) : (complete s).pend = s.pend := rfl
@[simp] theorem complete_rst (s : State) : (complete s).rst = s.rst := rfl
@[simp] theorem complete_wait (s : State) : (complete s).wait = s.wait := rfl
@[simp] theorem complete_draws (s : State) : (complete s).draws = s.draws := rfl
@[simp] theorem complete_script (s : State) : (complete s).script = s.script := rfl
@[simp] theorem complete_reads (s : State) : (complete s).reads = s.reads := rfl

/-! ### endError -/

@[simp] theorem endError_busy (c : ResultCode) (s : State) : (endError c s).busy = false := rfl
@[simp] theorem endError_keyValid (c : ResultCode) (s : State) : (endError c s).keyValid = s.keyValid := rfl
@[simp] theorem endError_ovr (c : ResultCode) (s : State) : (endError c s).ovr = s.ovr := rfl
@[simp] theorem endError_err (c : ResultCode) (s : State) : (endError c s).err = c := rfl
@[simp] theorem endError_outLen (c : ResultCode) (s : State) : (endError c s).outLen = 0 := rfl
@[simp] theorem endError_ctrLo (c : ResultCode) (s : State) : (endError c s).ctrLo = s.ctrLo := rfl
@[simp] theorem endError_ctrHi (c : ResultCode) (s : State) : (endError c s).ctrHi = s.ctrHi := rfl
@[simp] theorem endError_nonceLo (c : ResultCode) (s : State) : (endError c s).nonceLo = s.nonceLo := rfl
@[simp] theorem endError_nonceHi (c : ResultCode) (s : State) : (endError c s).nonceHi = s.nonceHi := rfl
@[simp] theorem endError_key (c : ResultCode) (s : State) : (endError c s).key = s.key := rfl
@[simp] theorem endError_din (c : ResultCode) (s : State) : (endError c s).din = s.din := rfl
@[simp] theorem endError_dout (c : ResultCode) (s : State) : (endError c s).dout = s.dout := rfl
@[simp] theorem endError_sched (c : ResultCode) (s : State) : (endError c s).sched = s.sched := rfl
@[simp] theorem endError_nri (c : ResultCode) (s : State) : (endError c s).nri = s.nri := rfl
@[simp] theorem endError_pend (c : ResultCode) (s : State) : (endError c s).pend = s.pend := rfl
@[simp] theorem endError_rst (c : ResultCode) (s : State) : (endError c s).rst = s.rst := rfl
@[simp] theorem endError_wait (c : ResultCode) (s : State) : (endError c s).wait = s.wait := rfl
@[simp] theorem endError_draws (c : ResultCode) (s : State) : (endError c s).draws = s.draws := rfl
@[simp] theorem endError_script (c : ResultCode) (s : State) : (endError c s).script = s.script := rfl
@[simp] theorem endError_reads (c : ResultCode) (s : State) : (endError c s).reads = s.reads := rfl

/-! ### loadSchedule -/

@[simp] theorem loadSchedule_busy (p : List SWord × Nat) (s : State) : (loadSchedule p s).busy = s.busy := rfl
@[simp] theorem loadSchedule_keyValid (p : List SWord × Nat) (s : State) : (loadSchedule p s).keyValid = true := rfl
@[simp] theorem loadSchedule_ovr (p : List SWord × Nat) (s : State) : (loadSchedule p s).ovr = s.ovr := rfl
@[simp] theorem loadSchedule_err (p : List SWord × Nat) (s : State) : (loadSchedule p s).err = s.err := rfl
@[simp] theorem loadSchedule_outLen (p : List SWord × Nat) (s : State) : (loadSchedule p s).outLen = s.outLen := rfl
@[simp] theorem loadSchedule_ctrLo (p : List SWord × Nat) (s : State) : (loadSchedule p s).ctrLo = s.ctrLo := rfl
@[simp] theorem loadSchedule_ctrHi (p : List SWord × Nat) (s : State) : (loadSchedule p s).ctrHi = s.ctrHi := rfl
@[simp] theorem loadSchedule_nonceLo (p : List SWord × Nat) (s : State) : (loadSchedule p s).nonceLo = s.nonceLo := rfl
@[simp] theorem loadSchedule_nonceHi (p : List SWord × Nat) (s : State) : (loadSchedule p s).nonceHi = s.nonceHi := rfl
@[simp] theorem loadSchedule_key (p : List SWord × Nat) (s : State) : (loadSchedule p s).key = s.key := rfl
@[simp] theorem loadSchedule_din (p : List SWord × Nat) (s : State) : (loadSchedule p s).din = s.din := rfl
@[simp] theorem loadSchedule_dout (p : List SWord × Nat) (s : State) : (loadSchedule p s).dout = s.dout := rfl
@[simp] theorem loadSchedule_sched (p : List SWord × Nat) (s : State) : (loadSchedule p s).sched = storeSchedule p.1 s.sched := rfl
@[simp] theorem loadSchedule_nri (p : List SWord × Nat) (s : State) : (loadSchedule p s).nri = BitVec.ofNat 4 p.2 := rfl
@[simp] theorem loadSchedule_pend (p : List SWord × Nat) (s : State) : (loadSchedule p s).pend = s.pend := rfl
@[simp] theorem loadSchedule_rst (p : List SWord × Nat) (s : State) : (loadSchedule p s).rst = s.rst := rfl
@[simp] theorem loadSchedule_wait (p : List SWord × Nat) (s : State) : (loadSchedule p s).wait = s.wait := rfl
@[simp] theorem loadSchedule_draws (p : List SWord × Nat) (s : State) : (loadSchedule p s).draws = s.draws := rfl
@[simp] theorem loadSchedule_script (p : List SWord × Nat) (s : State) : (loadSchedule p s).script = s.script := rfl
@[simp] theorem loadSchedule_reads (p : List SWord × Nat) (s : State) : (loadSchedule p s).reads = s.reads := rfl

/-! ### putDout -/

@[simp] theorem putDout_busy (b : Block) (n : BitVec 5) (s : State) : (putDout b n s).busy = s.busy := rfl
@[simp] theorem putDout_keyValid (b : Block) (n : BitVec 5) (s : State) : (putDout b n s).keyValid = s.keyValid := rfl
@[simp] theorem putDout_ovr (b : Block) (n : BitVec 5) (s : State) : (putDout b n s).ovr = s.ovr := rfl
@[simp] theorem putDout_err (b : Block) (n : BitVec 5) (s : State) : (putDout b n s).err = s.err := rfl
@[simp] theorem putDout_outLen (b : Block) (n : BitVec 5) (s : State) : (putDout b n s).outLen = n := rfl
@[simp] theorem putDout_ctrLo (b : Block) (n : BitVec 5) (s : State) : (putDout b n s).ctrLo = s.ctrLo := rfl
@[simp] theorem putDout_ctrHi (b : Block) (n : BitVec 5) (s : State) : (putDout b n s).ctrHi = s.ctrHi := rfl
@[simp] theorem putDout_nonceLo (b : Block) (n : BitVec 5) (s : State) : (putDout b n s).nonceLo = s.nonceLo := rfl
@[simp] theorem putDout_nonceHi (b : Block) (n : BitVec 5) (s : State) : (putDout b n s).nonceHi = s.nonceHi := rfl
@[simp] theorem putDout_key (b : Block) (n : BitVec 5) (s : State) : (putDout b n s).key = s.key := rfl
@[simp] theorem putDout_din (b : Block) (n : BitVec 5) (s : State) : (putDout b n s).din = s.din := rfl
@[simp] theorem putDout_dout (b : Block) (n : BitVec 5) (s : State) : (putDout b n s).dout = regsOfBlock b := rfl
@[simp] theorem putDout_sched (b : Block) (n : BitVec 5) (s : State) : (putDout b n s).sched = s.sched := rfl
@[simp] theorem putDout_nri (b : Block) (n : BitVec 5) (s : State) : (putDout b n s).nri = s.nri := rfl
@[simp] theorem putDout_pend (b : Block) (n : BitVec 5) (s : State) : (putDout b n s).pend = s.pend := rfl
@[simp] theorem putDout_rst (b : Block) (n : BitVec 5) (s : State) : (putDout b n s).rst = s.rst := rfl
@[simp] theorem putDout_wait (b : Block) (n : BitVec 5) (s : State) : (putDout b n s).wait = s.wait := rfl
@[simp] theorem putDout_draws (b : Block) (n : BitVec 5) (s : State) : (putDout b n s).draws = s.draws := rfl
@[simp] theorem putDout_script (b : Block) (n : BitVec 5) (s : State) : (putDout b n s).script = s.script := rfl
@[simp] theorem putDout_reads (b : Block) (n : BitVec 5) (s : State) : (putDout b n s).reads = s.reads := rfl

/-! ### setCtr -/

@[simp] theorem setCtr_busy (v : BitVec 64) (s : State) : (setCtr v s).busy = s.busy := rfl
@[simp] theorem setCtr_keyValid (v : BitVec 64) (s : State) : (setCtr v s).keyValid = s.keyValid := rfl
@[simp] theorem setCtr_ovr (v : BitVec 64) (s : State) : (setCtr v s).ovr = s.ovr := rfl
@[simp] theorem setCtr_err (v : BitVec 64) (s : State) : (setCtr v s).err = s.err := rfl
@[simp] theorem setCtr_outLen (v : BitVec 64) (s : State) : (setCtr v s).outLen = s.outLen := rfl
@[simp] theorem setCtr_ctrLo (v : BitVec 64) (s : State) : (setCtr v s).ctrLo = v.extractLsb' 0 32 := rfl
@[simp] theorem setCtr_ctrHi (v : BitVec 64) (s : State) : (setCtr v s).ctrHi = v.extractLsb' 32 32 := rfl
@[simp] theorem setCtr_nonceLo (v : BitVec 64) (s : State) : (setCtr v s).nonceLo = s.nonceLo := rfl
@[simp] theorem setCtr_nonceHi (v : BitVec 64) (s : State) : (setCtr v s).nonceHi = s.nonceHi := rfl
@[simp] theorem setCtr_key (v : BitVec 64) (s : State) : (setCtr v s).key = s.key := rfl
@[simp] theorem setCtr_din (v : BitVec 64) (s : State) : (setCtr v s).din = s.din := rfl
@[simp] theorem setCtr_dout (v : BitVec 64) (s : State) : (setCtr v s).dout = s.dout := rfl
@[simp] theorem setCtr_sched (v : BitVec 64) (s : State) : (setCtr v s).sched = s.sched := rfl
@[simp] theorem setCtr_nri (v : BitVec 64) (s : State) : (setCtr v s).nri = s.nri := rfl
@[simp] theorem setCtr_pend (v : BitVec 64) (s : State) : (setCtr v s).pend = s.pend := rfl
@[simp] theorem setCtr_rst (v : BitVec 64) (s : State) : (setCtr v s).rst = s.rst := rfl
@[simp] theorem setCtr_wait (v : BitVec 64) (s : State) : (setCtr v s).wait = s.wait := rfl
@[simp] theorem setCtr_draws (v : BitVec 64) (s : State) : (setCtr v s).draws = s.draws := rfl
@[simp] theorem setCtr_script (v : BitVec 64) (s : State) : (setCtr v s).script = s.script := rfl
@[simp] theorem setCtr_reads (v : BitVec 64) (s : State) : (setCtr v s).reads = s.reads := rfl

/-! ### seedNonce -/

@[simp] theorem seedNonce_busy (v : BitVec 64) (s : State) : (seedNonce v s).busy = s.busy := rfl
@[simp] theorem seedNonce_keyValid (v : BitVec 64) (s : State) : (seedNonce v s).keyValid = s.keyValid := rfl
@[simp] theorem seedNonce_ovr (v : BitVec 64) (s : State) : (seedNonce v s).ovr = s.ovr := rfl
@[simp] theorem seedNonce_err (v : BitVec 64) (s : State) : (seedNonce v s).err = s.err := rfl
@[simp] theorem seedNonce_outLen (v : BitVec 64) (s : State) : (seedNonce v s).outLen = s.outLen := rfl
@[simp] theorem seedNonce_ctrLo (v : BitVec 64) (s : State) : (seedNonce v s).ctrLo = 0 := rfl
@[simp] theorem seedNonce_ctrHi (v : BitVec 64) (s : State) : (seedNonce v s).ctrHi = 0 := rfl
@[simp] theorem seedNonce_nonceLo (v : BitVec 64) (s : State) : (seedNonce v s).nonceLo = ofLanes (SWord.ofBytesAt (nonceOfTime v) 0) := rfl
@[simp] theorem seedNonce_nonceHi (v : BitVec 64) (s : State) : (seedNonce v s).nonceHi = ofLanes (SWord.ofBytesAt (nonceOfTime v) 1) := rfl
@[simp] theorem seedNonce_key (v : BitVec 64) (s : State) : (seedNonce v s).key = s.key := rfl
@[simp] theorem seedNonce_din (v : BitVec 64) (s : State) : (seedNonce v s).din = s.din := rfl
@[simp] theorem seedNonce_dout (v : BitVec 64) (s : State) : (seedNonce v s).dout = s.dout := rfl
@[simp] theorem seedNonce_sched (v : BitVec 64) (s : State) : (seedNonce v s).sched = s.sched := rfl
@[simp] theorem seedNonce_nri (v : BitVec 64) (s : State) : (seedNonce v s).nri = s.nri := rfl
@[simp] theorem seedNonce_pend (v : BitVec 64) (s : State) : (seedNonce v s).pend = s.pend := rfl
@[simp] theorem seedNonce_rst (v : BitVec 64) (s : State) : (seedNonce v s).rst = s.rst := rfl
@[simp] theorem seedNonce_wait (v : BitVec 64) (s : State) : (seedNonce v s).wait = s.wait := rfl
@[simp] theorem seedNonce_draws (v : BitVec 64) (s : State) : (seedNonce v s).draws = s.draws := rfl
@[simp] theorem seedNonce_script (v : BitVec 64) (s : State) : (seedNonce v s).script = s.script := rfl
@[simp] theorem seedNonce_reads (v : BitVec 64) (s : State) : (seedNonce v s).reads = s.reads := rfl

/-! ### advanceDraws -/

@[simp] theorem advanceDraws_busy (s : State) : (advanceDraws s).busy = s.busy := rfl
@[simp] theorem advanceDraws_keyValid (s : State) : (advanceDraws s).keyValid = s.keyValid := rfl
@[simp] theorem advanceDraws_ovr (s : State) : (advanceDraws s).ovr = s.ovr := rfl
@[simp] theorem advanceDraws_err (s : State) : (advanceDraws s).err = s.err := rfl
@[simp] theorem advanceDraws_outLen (s : State) : (advanceDraws s).outLen = s.outLen := rfl
@[simp] theorem advanceDraws_ctrLo (s : State) : (advanceDraws s).ctrLo = s.ctrLo := rfl
@[simp] theorem advanceDraws_ctrHi (s : State) : (advanceDraws s).ctrHi = s.ctrHi := rfl
@[simp] theorem advanceDraws_nonceLo (s : State) : (advanceDraws s).nonceLo = s.nonceLo := rfl
@[simp] theorem advanceDraws_nonceHi (s : State) : (advanceDraws s).nonceHi = s.nonceHi := rfl
@[simp] theorem advanceDraws_key (s : State) : (advanceDraws s).key = s.key := rfl
@[simp] theorem advanceDraws_din (s : State) : (advanceDraws s).din = s.din := rfl
@[simp] theorem advanceDraws_dout (s : State) : (advanceDraws s).dout = s.dout := rfl
@[simp] theorem advanceDraws_sched (s : State) : (advanceDraws s).sched = s.sched := rfl
@[simp] theorem advanceDraws_nri (s : State) : (advanceDraws s).nri = s.nri := rfl
@[simp] theorem advanceDraws_pend (s : State) : (advanceDraws s).pend = s.pend := rfl
@[simp] theorem advanceDraws_rst (s : State) : (advanceDraws s).rst = s.rst := rfl
@[simp] theorem advanceDraws_wait (s : State) : (advanceDraws s).wait = s.wait := rfl
@[simp] theorem advanceDraws_draws (s : State) : (advanceDraws s).draws = s.draws + 1 := rfl
@[simp] theorem advanceDraws_script (s : State) : (advanceDraws s).script = s.script := rfl
@[simp] theorem advanceDraws_reads (s : State) : (advanceDraws s).reads = s.reads := rfl

/-! ### accept -/

@[simp] theorem accept_busy (w : Word) (s : State) : (accept w s).busy = true := rfl
@[simp] theorem accept_keyValid (w : Word) (s : State) : (accept w s).keyValid = s.keyValid := rfl
@[simp] theorem accept_ovr (w : Word) (s : State) : (accept w s).ovr = s.ovr := rfl
@[simp] theorem accept_err (w : Word) (s : State) : (accept w s).err = s.err := rfl
@[simp] theorem accept_outLen (w : Word) (s : State) : (accept w s).outLen = s.outLen := rfl
@[simp] theorem accept_ctrLo (w : Word) (s : State) : (accept w s).ctrLo = s.ctrLo := rfl
@[simp] theorem accept_ctrHi (w : Word) (s : State) : (accept w s).ctrHi = s.ctrHi := rfl
@[simp] theorem accept_nonceLo (w : Word) (s : State) : (accept w s).nonceLo = s.nonceLo := rfl
@[simp] theorem accept_nonceHi (w : Word) (s : State) : (accept w s).nonceHi = s.nonceHi := rfl
@[simp] theorem accept_key (w : Word) (s : State) : (accept w s).key = s.key := rfl
@[simp] theorem accept_din (w : Word) (s : State) : (accept w s).din = s.din := rfl
@[simp] theorem accept_dout (w : Word) (s : State) : (accept w s).dout = s.dout := rfl
@[simp] theorem accept_sched (w : Word) (s : State) : (accept w s).sched = s.sched := rfl
@[simp] theorem accept_nri (w : Word) (s : State) : (accept w s).nri = s.nri := rfl
@[simp] theorem accept_pend (w : Word) (s : State) : (accept w s).pend = w := rfl
@[simp] theorem accept_rst (w : Word) (s : State) : (accept w s).rst = s.rst := rfl
@[simp] theorem accept_wait (w : Word) (s : State) : (accept w s).wait = Config.latency w s := rfl
@[simp] theorem accept_draws (w : Word) (s : State) : (accept w s).draws = s.draws + 1 := rfl
@[simp] theorem accept_script (w : Word) (s : State) : (accept w s).script = s.script := rfl
@[simp] theorem accept_reads (w : Word) (s : State) : (accept w s).reads = s.reads := rfl

/-! ### releaseReset -/

@[simp] theorem releaseReset_busy (s : State) : (releaseReset s).busy = s.busy := rfl
@[simp] theorem releaseReset_keyValid (s : State) : (releaseReset s).keyValid = s.keyValid := rfl
@[simp] theorem releaseReset_ovr (s : State) : (releaseReset s).ovr = s.ovr := rfl
@[simp] theorem releaseReset_err (s : State) : (releaseReset s).err = s.err := rfl
@[simp] theorem releaseReset_outLen (s : State) : (releaseReset s).outLen = s.outLen := rfl
@[simp] theorem releaseReset_ctrLo (s : State) : (releaseReset s).ctrLo = s.ctrLo := rfl
@[simp] theorem releaseReset_ctrHi (s : State) : (releaseReset s).ctrHi = s.ctrHi := rfl
@[simp] theorem releaseReset_nonceLo (s : State) : (releaseReset s).nonceLo = s.nonceLo := rfl
@[simp] theorem releaseReset_nonceHi (s : State) : (releaseReset s).nonceHi = s.nonceHi := rfl
@[simp] theorem releaseReset_key (s : State) : (releaseReset s).key = s.key := rfl
@[simp] theorem releaseReset_din (s : State) : (releaseReset s).din = s.din := rfl
@[simp] theorem releaseReset_dout (s : State) : (releaseReset s).dout = s.dout := rfl
@[simp] theorem releaseReset_sched (s : State) : (releaseReset s).sched = s.sched := rfl
@[simp] theorem releaseReset_nri (s : State) : (releaseReset s).nri = s.nri := rfl
@[simp] theorem releaseReset_pend (s : State) : (releaseReset s).pend = s.pend := rfl
@[simp] theorem releaseReset_rst (s : State) : (releaseReset s).rst = false := rfl
@[simp] theorem releaseReset_wait (s : State) : (releaseReset s).wait = s.wait := rfl
@[simp] theorem releaseReset_draws (s : State) : (releaseReset s).draws = s.draws := rfl
@[simp] theorem releaseReset_script (s : State) : (releaseReset s).script = s.script := rfl
@[simp] theorem releaseReset_reads (s : State) : (releaseReset s).reads = s.reads := rfl

/-! ### tick -/

@[simp] theorem tick_busy (s : State) : (tick s).busy = s.busy := rfl
@[simp] theorem tick_keyValid (s : State) : (tick s).keyValid = s.keyValid := rfl
@[simp] theorem tick_ovr (s : State) : (tick s).ovr = s.ovr := rfl
@[simp] theorem tick_err (s : State) : (tick s).err = s.err := rfl
@[simp] theorem tick_outLen (s : State) : (tick s).outLen = s.outLen := rfl
@[simp] theorem tick_ctrLo (s : State) : (tick s).ctrLo = s.ctrLo := rfl
@[simp] theorem tick_ctrHi (s : State) : (tick s).ctrHi = s.ctrHi := rfl
@[simp] theorem tick_nonceLo (s : State) : (tick s).nonceLo = s.nonceLo := rfl
@[simp] theorem tick_nonceHi (s : State) : (tick s).nonceHi = s.nonceHi := rfl
@[simp] theorem tick_key (s : State) : (tick s).key = s.key := rfl
@[simp] theorem tick_din (s : State) : (tick s).din = s.din := rfl
@[simp] theorem tick_dout (s : State) : (tick s).dout = s.dout := rfl
@[simp] theorem tick_sched (s : State) : (tick s).sched = s.sched := rfl
@[simp] theorem tick_nri (s : State) : (tick s).nri = s.nri := rfl
@[simp] theorem tick_pend (s : State) : (tick s).pend = s.pend := rfl
@[simp] theorem tick_rst (s : State) : (tick s).rst = s.rst := rfl
@[simp] theorem tick_wait (s : State) : (tick s).wait = s.wait - 1 := rfl
@[simp] theorem tick_draws (s : State) : (tick s).draws = s.draws := rfl
@[simp] theorem tick_script (s : State) : (tick s).script = s.script := rfl
@[simp] theorem tick_reads (s : State) : (tick s).reads = s.reads := rfl

/-! ### dropEvent -/

@[simp] theorem dropEvent_busy (s : State) : (dropEvent s).busy = s.busy := rfl
@[simp] theorem dropEvent_keyValid (s : State) : (dropEvent s).keyValid = s.keyValid := rfl
@[simp] theorem dropEvent_ovr (s : State) : (dropEvent s).ovr = s.ovr := rfl
@[simp] theorem dropEvent_err (s : State) : (dropEvent s).err = s.err := rfl
@[simp] theorem dropEvent_outLen (s : State) : (dropEvent s).outLen = s.outLen := rfl
@[simp] theorem dropEvent_ctrLo (s : State) : (dropEvent s).ctrLo = s.ctrLo := rfl
@[simp] theorem dropEvent_ctrHi (s : State) : (dropEvent s).ctrHi = s.ctrHi := rfl
@[simp] theorem dropEvent_nonceLo (s : State) : (dropEvent s).nonceLo = s.nonceLo := rfl
@[simp] theorem dropEvent_nonceHi (s : State) : (dropEvent s).nonceHi = s.nonceHi := rfl
@[simp] theorem dropEvent_key (s : State) : (dropEvent s).key = s.key := rfl
@[simp] theorem dropEvent_din (s : State) : (dropEvent s).din = s.din := rfl
@[simp] theorem dropEvent_dout (s : State) : (dropEvent s).dout = s.dout := rfl
@[simp] theorem dropEvent_sched (s : State) : (dropEvent s).sched = s.sched := rfl
@[simp] theorem dropEvent_nri (s : State) : (dropEvent s).nri = s.nri := rfl
@[simp] theorem dropEvent_pend (s : State) : (dropEvent s).pend = s.pend := rfl
@[simp] theorem dropEvent_rst (s : State) : (dropEvent s).rst = s.rst := rfl
@[simp] theorem dropEvent_wait (s : State) : (dropEvent s).wait = s.wait := rfl
@[simp] theorem dropEvent_draws (s : State) : (dropEvent s).draws = s.draws := rfl
@[simp] theorem dropEvent_script (s : State) : (dropEvent s).script = s.script.drop 1 := rfl
@[simp] theorem dropEvent_reads (s : State) : (dropEvent s).reads = s.reads := rfl

/-! ### logRead -/

@[simp] theorem logRead_busy (off : BitVec 7) (v : Word) (s : State) : (logRead off v s).busy = s.busy := rfl
@[simp] theorem logRead_keyValid (off : BitVec 7) (v : Word) (s : State) : (logRead off v s).keyValid = s.keyValid := rfl
@[simp] theorem logRead_ovr (off : BitVec 7) (v : Word) (s : State) : (logRead off v s).ovr = s.ovr := rfl
@[simp] theorem logRead_err (off : BitVec 7) (v : Word) (s : State) : (logRead off v s).err = s.err := rfl
@[simp] theorem logRead_outLen (off : BitVec 7) (v : Word) (s : State) : (logRead off v s).outLen = s.outLen := rfl
@[simp] theorem logRead_ctrLo (off : BitVec 7) (v : Word) (s : State) : (logRead off v s).ctrLo = s.ctrLo := rfl
@[simp] theorem logRead_ctrHi (off : BitVec 7) (v : Word) (s : State) : (logRead off v s).ctrHi = s.ctrHi := rfl
@[simp] theorem logRead_nonceLo (off : BitVec 7) (v : Word) (s : State) : (logRead off v s).nonceLo = s.nonceLo := rfl
@[simp] theorem logRead_nonceHi (off : BitVec 7) (v : Word) (s : State) : (logRead off v s).nonceHi = s.nonceHi := rfl
@[simp] theorem logRead_key (off : BitVec 7) (v : Word) (s : State) : (logRead off v s).key = s.key := rfl
@[simp] theorem logRead_din (off : BitVec 7) (v : Word) (s : State) : (logRead off v s).din = s.din := rfl
@[simp] theorem logRead_dout (off : BitVec 7) (v : Word) (s : State) : (logRead off v s).dout = s.dout := rfl
@[simp] theorem logRead_sched (off : BitVec 7) (v : Word) (s : State) : (logRead off v s).sched = s.sched := rfl
@[simp] theorem logRead_nri (off : BitVec 7) (v : Word) (s : State) : (logRead off v s).nri = s.nri := rfl
@[simp] theorem logRead_pend (off : BitVec 7) (v : Word) (s : State) : (logRead off v s).pend = s.pend := rfl
@[simp] theorem logRead_rst (off : BitVec 7) (v : Word) (s : State) : (logRead off v s).rst = s.rst := rfl
@[simp] theorem logRead_wait (off : BitVec 7) (v : Word) (s : State) : (logRead off v s).wait = s.wait := rfl
@[simp] theorem logRead_draws (off : BitVec 7) (v : Word) (s : State) : (logRead off v s).draws = s.draws := rfl
@[simp] theorem logRead_script (off : BitVec 7) (v : Word) (s : State) : (logRead off v s).script = s.script := rfl
@[simp] theorem logRead_reads (off : BitVec 7) (v : Word) (s : State) : (logRead off v s).reads = s.reads ++ [⟨off, v⟩] := rfl

/-! ### dropWrite -/

@[simp] theorem dropWrite_busy (s : State) : (dropWrite s).busy = s.busy := rfl
@[simp] theorem dropWrite_keyValid (s : State) : (dropWrite s).keyValid = s.keyValid := rfl
@[simp] theorem dropWrite_ovr (s : State) : (dropWrite s).ovr = true := rfl
@[simp] theorem dropWrite_err (s : State) : (dropWrite s).err = s.err := rfl
@[simp] theorem dropWrite_outLen (s : State) : (dropWrite s).outLen = s.outLen := rfl
@[simp] theorem dropWrite_ctrLo (s : State) : (dropWrite s).ctrLo = s.ctrLo := rfl
@[simp] theorem dropWrite_ctrHi (s : State) : (dropWrite s).ctrHi = s.ctrHi := rfl
@[simp] theorem dropWrite_nonceLo (s : State) : (dropWrite s).nonceLo = s.nonceLo := rfl
@[simp] theorem dropWrite_nonceHi (s : State) : (dropWrite s).nonceHi = s.nonceHi := rfl
@[simp] theorem dropWrite_key (s : State) : (dropWrite s).key = s.key := rfl
@[simp] theorem dropWrite_din (s : State) : (dropWrite s).din = s.din := rfl
@[simp] theorem dropWrite_dout (s : State) : (dropWrite s).dout = s.dout := rfl
@[simp] theorem dropWrite_sched (s : State) : (dropWrite s).sched = s.sched := rfl
@[simp] theorem dropWrite_nri (s : State) : (dropWrite s).nri = s.nri := rfl
@[simp] theorem dropWrite_pend (s : State) : (dropWrite s).pend = s.pend := rfl
@[simp] theorem dropWrite_rst (s : State) : (dropWrite s).rst = s.rst := rfl
@[simp] theorem dropWrite_wait (s : State) : (dropWrite s).wait = s.wait := rfl
@[simp] theorem dropWrite_draws (s : State) : (dropWrite s).draws = s.draws := rfl
@[simp] theorem dropWrite_script (s : State) : (dropWrite s).script = s.script := rfl
@[simp] theorem dropWrite_reads (s : State) : (dropWrite s).reads = s.reads := rfl

/-! ### assertReset -/

@[simp] theorem assertReset_busy (s : State) : (assertReset s).busy = State.reset.busy := rfl
@[simp] theorem assertReset_keyValid (s : State) : (assertReset s).keyValid = State.reset.keyValid := rfl
@[simp] theorem assertReset_ovr (s : State) : (assertReset s).ovr = State.reset.ovr := rfl
@[simp] theorem assertReset_err (s : State) : (assertReset s).err = State.reset.err := rfl
@[simp] theorem assertReset_outLen (s : State) : (assertReset s).outLen = State.reset.outLen := rfl
@[simp] theorem assertReset_ctrLo (s : State) : (assertReset s).ctrLo = State.reset.ctrLo := rfl
@[simp] theorem assertReset_ctrHi (s : State) : (assertReset s).ctrHi = State.reset.ctrHi := rfl
@[simp] theorem assertReset_nonceLo (s : State) : (assertReset s).nonceLo = State.reset.nonceLo := rfl
@[simp] theorem assertReset_nonceHi (s : State) : (assertReset s).nonceHi = State.reset.nonceHi := rfl
@[simp] theorem assertReset_key (s : State) : (assertReset s).key = State.reset.key := rfl
@[simp] theorem assertReset_din (s : State) : (assertReset s).din = State.reset.din := rfl
@[simp] theorem assertReset_dout (s : State) : (assertReset s).dout = State.reset.dout := rfl
@[simp] theorem assertReset_sched (s : State) : (assertReset s).sched = State.reset.sched := rfl
@[simp] theorem assertReset_nri (s : State) : (assertReset s).nri = State.reset.nri := rfl
@[simp] theorem assertReset_pend (s : State) : (assertReset s).pend = State.reset.pend := rfl
@[simp] theorem assertReset_rst (s : State) : (assertReset s).rst = true := rfl
@[simp] theorem assertReset_wait (s : State) : (assertReset s).wait = State.reset.wait := rfl
@[simp] theorem assertReset_draws (s : State) : (assertReset s).draws = s.draws := rfl
@[simp] theorem assertReset_script (s : State) : (assertReset s).script = s.script := rfl
@[simp] theorem assertReset_reads (s : State) : (assertReset s).reads = s.reads := rfl

/-! ### The state after reset (R131) -/

theorem reset_busy : State.reset.busy = false := rfl
theorem reset_keyValid : State.reset.keyValid = false := rfl
theorem reset_ovr : State.reset.ovr = false := rfl
theorem reset_err : State.reset.err = .ok := rfl
theorem reset_outLen : State.reset.outLen = 0 := rfl
theorem reset_ctrLo : State.reset.ctrLo = 0 := rfl
theorem reset_ctrHi : State.reset.ctrHi = 0 := rfl
theorem reset_nonceLo : State.reset.nonceLo = 0 := rfl
theorem reset_nonceHi : State.reset.nonceHi = 0 := rfl
theorem reset_key : State.reset.key = Vector.replicate 8 0 := rfl
theorem reset_din : State.reset.din = Vector.replicate 4 0 := rfl
theorem reset_dout : State.reset.dout = Vector.replicate 4 0 := rfl
theorem reset_sched : State.reset.sched = Vector.replicate 60 default := rfl
theorem reset_nri : State.reset.nri = 0 := rfl
theorem reset_pend : State.reset.pend = 0 := rfl
theorem reset_rst : State.reset.rst = false := rfl
theorem reset_wait : State.reset.wait = 0 := rfl
theorem reset_draws : State.reset.draws = 0 := rfl
theorem reset_script : State.reset.script = [] := rfl
theorem reset_reads : State.reset.reads = [] := rfl

end Sys2Proof.Machine
end

