-- ==== Sys2Proof/Laws/Ops.lean ====
section
/-!
SUPPORT. One lemma for each shared function that says what it gives: lanes and register groups, the schedule and
its store, the derived key, the counter and the nonce, and the operand checks.
-/

namespace Sys2Proof.Machine

/-! ### Lanes and register groups (R35) -/

open BitVec in
@[simp] theorem lanes_ofLanes (b : SWord) : lanes (ofLanes b) = b := by
  have h1 : (ofLanes b).extractLsb' 8 8 = b.b1 :=
    (extractLsb'_append_eq_of_le (w := 8) (by decide)).trans extractLsb'_append_eq_right
  have h2 : (ofLanes b).extractLsb' 16 8 = b.b2 :=
    (extractLsb'_append_eq_of_le (w := 8) (by decide)).trans
      ((extractLsb'_append_eq_of_le (w := 8) (by decide)).trans extractLsb'_append_eq_right)
  have h3 : (ofLanes b).extractLsb' 24 8 = b.b3 :=
    (extractLsb'_append_eq_of_le (w := 8) (by decide)).trans
      ((extractLsb'_append_eq_of_le (w := 8) (by decide)).trans extractLsb'_append_eq_left)
  have h0 : (ofLanes b).extractLsb' 0 8 = b.b0 := extractLsb'_append_eq_right
  simp only [lanes, h0, h1, h2, h3]

open BitVec in
@[simp] theorem ofLanes_lanes (w : Word) : ofLanes (lanes w) = w := by
  have h2 : w.extractLsb' 24 8 ++ w.extractLsb' 16 8 = w.extractLsb' 16 16 :=
    extractLsb'_append_extractLsb'_eq_extractLsb' rfl
  have h1 : w.extractLsb' 16 16 ++ w.extractLsb' 8 8 = w.extractLsb' 8 24 :=
    extractLsb'_append_extractLsb'_eq_extractLsb' rfl
  have h0 : w.extractLsb' 8 24 ++ w.extractLsb' 0 8 = w.extractLsb' 0 32 :=
    extractLsb'_append_extractLsb'_eq_extractLsb' rfl
  calc ofLanes (lanes w)
      = w.extractLsb' 24 8 ++ w.extractLsb' 16 8 ++ w.extractLsb' 8 8 ++ w.extractLsb' 0 8 := rfl
    _ = w.extractLsb' 0 32 := by rw [h2]; exact (congrArg (· ++ w.extractLsb' 0 8) h1).trans h0
    _ = w := extractLsb'_eq_self

@[simp] theorem blockOfRegs_regsOfBlock (b : Block) : blockOfRegs (regsOfBlock b) = b := by
  simp [blockOfRegs, regsOfBlock]

@[simp] theorem bytes_length (w : SWord) : w.bytes.length = 4 := rfl

@[simp] theorem block_bytes_length (b : Block) : b.bytes.length = 16 := rfl

theorem block_bytes_getD (b : Block) (i : Nat) (h : i < 16) : b.bytes.getD i 0 = b.get i := by
  interval_cases i <;> rfl

theorem block_ofFn_get (f : Nat → Byte) (i : Nat) (h : i < 16) : (Block.ofFn f).get i = f i := by
  interval_cases i <;> rfl

@[simp] theorem keyB_length (s : State) : (keyB s).length = 32 := by
  simp [keyB, List.length_flatMap]

theorem rawKey_length (n : Nat) (s : State) (h : n ≤ 32) : (rawKey n s).length = n := by
  simp [rawKey, h]

@[simp] theorem nonceB_length (s : State) : (nonceB s).length = 8 := rfl

@[simp] theorem doutB_putDout (b : Block) (n : BitVec 5) (s : State) : doutB (putDout b n s) = b := by
  simp [doutB]

/-! ### The counter and the nonce (R24, R92) -/

@[simp] theorem ctr_setCtr (v : BitVec 64) (s : State) : ctr (setCtr v s) = v := by
  have h : v.extractLsb' 32 32 ++ v.extractLsb' 0 32 = v.extractLsb' 0 64 :=
    BitVec.extractLsb'_append_extractLsb'_eq_extractLsb' rfl
  exact h.trans BitVec.extractLsb'_eq_self

@[simp] theorem nonceOfTime_length (t : BitVec 64) : (nonceOfTime t).length = 8 := by
  simp [nonceOfTime]

@[simp] theorem nonceB_seedNonce (t : BitVec 64) (s : State) : nonceB (seedNonce t s) = nonceOfTime t := by
  simp [nonceB, nonceOfTime, SWord.bytes, SWord.ofBytesAt, List.range_succ_eq_map]

@[simp] theorem ctr_seedNonce (t : BitVec 64) (s : State) : ctr (seedNonce t s) = 0 := by
  simp [seedNonce]

/-! ### The byte views of an updated state -/

@[simp] theorem dinB_complete (s : State) :
    dinB (complete s) = dinB s := rfl

@[simp] theorem doutB_complete (s : State) :
    doutB (complete s) = doutB s := rfl

@[simp] theorem keyB_complete (s : State) :
    keyB (complete s) = keyB s := rfl

@[simp] theorem nonceB_complete (s : State) :
    nonceB (complete s) = nonceB s := rfl

@[simp] theorem ctr_complete (s : State) :
    ctr (complete s) = ctr s := rfl

@[simp] theorem dinB_endError (c : ResultCode) (s : State) :
    dinB (endError c s) = dinB s := rfl

@[simp] theorem doutB_endError (c : ResultCode) (s : State) :
    doutB (endError c s) = doutB s := rfl

@[simp] theorem keyB_endError (c : ResultCode) (s : State) :
    keyB (endError c s) = keyB s := rfl

@[simp] theorem nonceB_endError (c : ResultCode) (s : State) :
    nonceB (endError c s) = nonceB s := rfl

@[simp] theorem ctr_endError (c : ResultCode) (s : State) :
    ctr (endError c s) = ctr s := rfl

@[simp] theorem dinB_loadSchedule (p : List SWord × Nat) (s : State) :
    dinB (loadSchedule p s) = dinB s := rfl

@[simp] theorem doutB_loadSchedule (p : List SWord × Nat) (s : State) :
    doutB (loadSchedule p s) = doutB s := rfl

@[simp] theorem keyB_loadSchedule (p : List SWord × Nat) (s : State) :
    keyB (loadSchedule p s) = keyB s := rfl

@[simp] theorem nonceB_loadSchedule (p : List SWord × Nat) (s : State) :
    nonceB (loadSchedule p s) = nonceB s := rfl

@[simp] theorem ctr_loadSchedule (p : List SWord × Nat) (s : State) :
    ctr (loadSchedule p s) = ctr s := rfl

@[simp] theorem dinB_putDout (b : Block) (n : BitVec 5) (s : State) :
    dinB (putDout b n s) = dinB s := rfl

@[simp] theorem keyB_putDout (b : Block) (n : BitVec 5) (s : State) :
    keyB (putDout b n s) = keyB s := rfl

@[simp] theorem nonceB_putDout (b : Block) (n : BitVec 5) (s : State) :
    nonceB (putDout b n s) = nonceB s := rfl

@[simp] theorem ctr_putDout (b : Block) (n : BitVec 5) (s : State) :
    ctr (putDout b n s) = ctr s := rfl

@[simp] theorem dinB_setCtr (v : BitVec 64) (s : State) :
    dinB (setCtr v s) = dinB s := rfl

@[simp] theorem doutB_setCtr (v : BitVec 64) (s : State) :
    doutB (setCtr v s) = doutB s := rfl

@[simp] theorem keyB_setCtr (v : BitVec 64) (s : State) :
    keyB (setCtr v s) = keyB s := rfl

@[simp] theorem nonceB_setCtr (v : BitVec 64) (s : State) :
    nonceB (setCtr v s) = nonceB s := rfl

@[simp] theorem dinB_seedNonce (t : BitVec 64) (s : State) :
    dinB (seedNonce t s) = dinB s := rfl

@[simp] theorem doutB_seedNonce (t : BitVec 64) (s : State) :
    doutB (seedNonce t s) = doutB s := rfl

@[simp] theorem keyB_seedNonce (t : BitVec 64) (s : State) :
    keyB (seedNonce t s) = keyB s := rfl

@[simp] theorem dinB_advanceDraws (s : State) :
    dinB (advanceDraws s) = dinB s := rfl

@[simp] theorem doutB_advanceDraws (s : State) :
    doutB (advanceDraws s) = doutB s := rfl

@[simp] theorem keyB_advanceDraws (s : State) :
    keyB (advanceDraws s) = keyB s := rfl

@[simp] theorem nonceB_advanceDraws (s : State) :
    nonceB (advanceDraws s) = nonceB s := rfl

@[simp] theorem ctr_advanceDraws (s : State) :
    ctr (advanceDraws s) = ctr s := rfl

@[simp] theorem dinB_accept (w : Word) (s : State) :
    dinB (accept w s) = dinB s := rfl

@[simp] theorem doutB_accept (w : Word) (s : State) :
    doutB (accept w s) = doutB s := rfl

@[simp] theorem keyB_accept (w : Word) (s : State) :
    keyB (accept w s) = keyB s := rfl

@[simp] theorem nonceB_accept (w : Word) (s : State) :
    nonceB (accept w s) = nonceB s := rfl

@[simp] theorem ctr_accept (w : Word) (s : State) :
    ctr (accept w s) = ctr s := rfl

@[simp] theorem dinB_tick (s : State) :
    dinB (tick s) = dinB s := rfl

@[simp] theorem doutB_tick (s : State) :
    doutB (tick s) = doutB s := rfl

@[simp] theorem keyB_tick (s : State) :
    keyB (tick s) = keyB s := rfl

@[simp] theorem nonceB_tick (s : State) :
    nonceB (tick s) = nonceB s := rfl

@[simp] theorem ctr_tick (s : State) :
    ctr (tick s) = ctr s := rfl

@[simp] theorem dinB_dropEvent (s : State) :
    dinB (dropEvent s) = dinB s := rfl

@[simp] theorem doutB_dropEvent (s : State) :
    doutB (dropEvent s) = doutB s := rfl

@[simp] theorem keyB_dropEvent (s : State) :
    keyB (dropEvent s) = keyB s := rfl

@[simp] theorem nonceB_dropEvent (s : State) :
    nonceB (dropEvent s) = nonceB s := rfl

@[simp] theorem ctr_dropEvent (s : State) :
    ctr (dropEvent s) = ctr s := rfl

@[simp] theorem dinB_logRead (off : BitVec 7) (v : Word) (s : State) :
    dinB (logRead off v s) = dinB s := rfl

@[simp] theorem doutB_logRead (off : BitVec 7) (v : Word) (s : State) :
    doutB (logRead off v s) = doutB s := rfl

@[simp] theorem keyB_logRead (off : BitVec 7) (v : Word) (s : State) :
    keyB (logRead off v s) = keyB s := rfl

@[simp] theorem nonceB_logRead (off : BitVec 7) (v : Word) (s : State) :
    nonceB (logRead off v s) = nonceB s := rfl

@[simp] theorem ctr_logRead (off : BitVec 7) (v : Word) (s : State) :
    ctr (logRead off v s) = ctr s := rfl

/-! ### The schedule (R67) and its store (R29) -/

theorem foldl_scheduleStep_length (nk : Nat) (l : List Nat) (w : List SWord) :
    (l.foldl (scheduleStep nk) w).length = w.length + l.length := by
  induction l generalizing w with
  | nil => rfl
  | cons i l ih =>
    rw [List.foldl_cons, ih]
    simp [scheduleStep]
    omega

theorem keyExpansion_rounds (key : List Byte) : (keyExpansion key).2 = key.length / 4 + 6 := rfl

theorem keyExpansion_length (key : List Byte) :
    (keyExpansion key).1.length = 4 * ((keyExpansion key).2 + 1) := by
  simp [keyExpansion, foldl_scheduleStep_length, keyWords]
  omega

theorem storeSchedule_get (w : List SWord) (old : Vector SWord 60) (i : Nat) (h : i < 60) :
    (storeSchedule w old)[i] = if i < w.length then w.getD i default else old[i] := by
  simp [storeSchedule]

/-! ### The derived key (R85) -/

@[simp] theorem derived16_length (raw : List Byte) : (derived16 raw).length = 16 := rfl

theorem deriveKey_length (raw : List Byte) (lo : 16 ≤ raw.length) (hi : raw.length ≤ 32) :
    (deriveKey raw).length = raw.length := by
  simp [deriveKey]
  omega

/-! ### Operands (R49, R50) -/

/-- An accepted BITS gives one of the three key lengths. -/
theorem keyLength_some {bits : BitVec 16} {n : Nat} (h : keyLength bits = some n) :
    (n = 16 ∨ n = 24 ∨ n = 32) ∧ bits.toNat = 8 * n := by
  unfold keyLength at h
  split at h
  · rename_i hb
    rcases hb with rfl | rfl | rfl <;> simp at h <;> subst h <;> simp
  · cases h

/-- Any other BITS is turned down. -/
theorem keyLength_none {bits : BitVec 16} :
    keyLength bits = none ↔ bits ≠ 128#16 ∧ bits ≠ 192#16 ∧ bits ≠ 256#16 := by
  simp [keyLength]

theorem lenAccepted_iff {len : BitVec 5} : lenAccepted len = true ↔ 1 ≤ len.toNat ∧ len.toNat ≤ 16 := by
  simp [lenAccepted]

end Sys2Proof.Machine
end

