-- ==== Sys2Proof/Laws/PerInstr.lean ====
section
/-!
SUPPORT. A statement about every command as syntax, made per constructor: the word of a command holds its OP in
bits 3:0 (R48).
-/

namespace Sys2Proof.Laws.Opcode

/-- Bits 3:0 of a command's word are its OP. -/
def Statement (i : Instr) : Prop := fieldOp (encode i) = opcode i

/-- Bits 3:0 of a packed word are the OP it was packed from. -/
theorem fieldOp_packFields (op : BitVec 4) (len : BitVec 5) (rsvd : BitVec 7) (bits : BitVec 16) :
    fieldOp (packFields op len rsvd bits) = op :=
  BitVec.extractLsb'_append_eq_right ..

theorem nop (len : BitVec 5) (rsvd : BitVec 7) (bits : BitVec 16) : Statement (.nop len rsvd bits) :=
  fieldOp_packFields ..

theorem keyexp (len : BitVec 5) (rsvd : BitVec 7) (bits : BitVec 16) : Statement (.keyexp len rsvd bits) :=
  fieldOp_packFields ..

theorem keyderive (len : BitVec 5) (rsvd : BitVec 7) (bits : BitVec 16) :
    Statement (.keyderive len rsvd bits) :=
  fieldOp_packFields ..

theorem encblk (len : BitVec 5) (rsvd : BitVec 7) (bits : BitVec 16) : Statement (.encblk len rsvd bits) :=
  fieldOp_packFields ..

theorem ctrseed (len : BitVec 5) (rsvd : BitVec 7) (bits : BitVec 16) : Statement (.ctrseed len rsvd bits) :=
  fieldOp_packFields ..

theorem xorchunk (len : BitVec 5) (rsvd : BitVec 7) (bits : BitVec 16) :
    Statement (.xorchunk len rsvd bits) :=
  fieldOp_packFields ..

theorem reservedOp6to7 (op : BitVec 4) (len : BitVec 5) (rsvd : BitVec 7) (bits : BitVec 16) :
    Statement (.reservedOp6to7 op len rsvd bits) :=
  fieldOp_packFields ..

theorem reservedOp8to15 (op : BitVec 4) (len : BitVec 5) (rsvd : BitVec 7) (bits : BitVec 16) :
    Statement (.reservedOp8to15 op len rsvd bits) :=
  fieldOp_packFields ..

end Sys2Proof.Laws.Opcode
end

