-- ==== Sys2Proof/Laws/Step.lean ====
section
/-!
SUPPORT. What a command, an event and a step can do, each said once: if it answers a next state, one of the listed
cases holds.
-/

namespace Sys2Proof.Machine

/-- The next states of a performed command, with the OP that leads to each. -/
inductive Performed (i : Instr) (s : State) : State → Prop where
  | nop (hi : opcode i = 0x0) : Performed i s (complete s)
  | error (c : ResultCode) (hc : c ≠ .ok) : Performed i s (endError c s)
  | key (hi : opcode i = 0x1 ∨ opcode i = 0x2) (raw : List Byte) (n : Nat)
      (hn : n = 16 ∨ n = 24 ∨ n = 32) (hr : raw.length = n) :
      Performed i s (complete (loadSchedule (keyExpansion raw) s))
  | block (hi : opcode i = 0x3) (hv : s.keyValid = true) :
      Performed i s (complete (putDout (cipher (dinB s) s.sched.toList s.nri.toNat) 16#5 s))
  | seed (hi : opcode i = 0x4) :
      Performed i s (complete (advanceDraws (seedNonce (Config.timeMs s.draws) s)))
  | stream (hi : opcode i = 0x5) (len : BitVec 5) (hl : lenAccepted len = true) (hv : s.keyValid = true) :
      Performed i s (complete (setCtr (ctr s + 1) (putDout
        (xorBlock (dinB s) (keystream (nonceB s) (ctr s) s.sched.toList s.nri.toNat) len.toNat) len s)))

/-- Everything a performed command can do (R52). -/
theorem exec_performed {i : Instr} {s t : State} (h : exec i s = .next t) : Performed i s t := by
  have key {bits : BitVec 16} {f : List Byte → List Byte}
      (hi : opcode i = 0x1 ∨ opcode i = 0x2)
      (hf : ∀ n ≤ 32, 16 ≤ n → (f (rawKey n s)).length = n)
      (h : (match keyLength bits with
        | none => Host.Outcome.next (φ := Fault) (ρ := Refusal) (endError .errBits s)
        | some n => .next (complete (loadSchedule (keyExpansion (f (rawKey n s))) s))) = .next t) :
      Performed i s t := by
    split at h
    · cases h; exact .error _ (by decide)
    · rename_i n hn
      cases h
      have hn := (keyLength_some hn).1
      exact .key hi _ n hn (hf n (by omega) (by omega))
  cases i with
  | nop => cases h; exact .nop rfl
  | keyexp _ _ bits => exact key (f := id) (.inl rfl) (fun n hn _ => rawKey_length n s hn) h
  | keyderive _ _ bits =>
    refine key (f := deriveKey) (.inr rfl) (fun n hn hl => ?_) h
    rw [deriveKey_length] <;> rw [rawKey_length n s hn] <;> omega
  | encblk =>
    simp only [exec, execEncblk] at h
    split at h
    · cases h; exact .block rfl ‹_›
    · cases h; exact .error _ (by decide)
  | ctrseed => cases h; exact .seed rfl
  | xorchunk len =>
    simp only [exec, execXorchunk] at h
    split at h
    · split at h
      · cases h; exact .stream rfl len ‹_› ‹_›
      · cases h; exact .error _ (by decide)
    · cases h; exact .error _ (by decide)
  | reservedOp6to7 => cases h; exact .error _ (by decide)
  | reservedOp8to15 => cases h; exact .error _ (by decide)

/-- The OP of the command a word decodes to is the word's OP (R52). -/
theorem opcode_decodeWord (w : Word) : opcode (decodeWord w) = fieldOp w := by
  unfold decodeWord decodeFields
  have h (n : Nat) (hn : (fieldOp w).toNat = n) : BitVec.ofNat 4 n = fieldOp w := by
    rw [← hn, BitVec.ofNat_toNat, BitVec.setWidth_eq]
  split
  all_goals first
    | rfl
    | exact h _ ‹_›

/-- Everything a host write can do (R39, R132). -/
theorem hostWrite_cases (off : BitVec 7) (v : Word) (s : State) :
    (s.rst = true ∧ hostWrite off v s = s) ∨
    (s.rst = false ∧ regAt off = .status ∧ hostWrite off v s = writeStatus v s) ∨
    (s.rst = false ∧ regAt off ≠ .status ∧ s.busy = true ∧ hostWrite off v s = dropWrite s) ∨
    (s.rst = false ∧ regAt off ≠ .status ∧ s.busy = false ∧ hostWrite off v s = writeReg v s (regAt off)) := by
  unfold hostWrite busWrite
  cases s.rst <;> cases hb : s.busy <;> by_cases hr : regAt off = .status <;> simp [hr]

/-- Everything an event can do. -/
theorem takeEvent_next {e : Event} {s t : State} (h : takeEvent e s = .next t) :
    (∃ bytes off, e = .read bytes off ∧ accessOk bytes off = true ∧
      t = dropEvent (logRead off (hostRead off s) s)) ∨
    (∃ bytes off v, e = .write bytes off v ∧ accessOk bytes off = true ∧ t = dropEvent (hostWrite off v s)) ∨
    (e = .poll ∧ t = pollOnce s) ∨ (e = .idle ∧ t = dropEvent s) ∨
    (e = .resetOn ∧ t = dropEvent (assertReset s)) ∨ (e = .resetOff ∧ t = dropEvent (releaseReset s)) := by
  cases e with
  | read bytes off =>
    simp only [takeEvent] at h
    split at h
    · cases h; exact .inl ⟨bytes, off, rfl, ‹_›, rfl⟩
    · cases h
  | write bytes off v =>
    simp only [takeEvent] at h
    split at h
    · cases h; exact .inr (.inl ⟨bytes, off, v, rfl, ‹_›, rfl⟩)
    · cases h
  | poll => cases h; exact .inr (.inr (.inl ⟨rfl, rfl⟩))
  | idle => cases h; exact .inr (.inr (.inr (.inl ⟨rfl, rfl⟩)))
  | resetOn => cases h; exact .inr (.inr (.inr (.inr (.inl ⟨rfl, rfl⟩))))
  | resetOff => cases h; exact .inr (.inr (.inr (.inr (.inr ⟨rfl, rfl⟩))))

theorem performDue_iff {s : State} : performDue s = true ↔ s.rst = false ∧ s.busy = true ∧ s.wait = 0 := by
  simp [performDue, and_assoc]

/-- Everything a step can do: the perform step, a wait with an empty script, or one event. -/
theorem step_next {s t : State} (h : step s = .next t) :
    (performDue s = true ∧ exec (pendingCommand s) s = .next t) ∨
    (performDue s = false ∧ s.script = [] ∧ t = tick s) ∨
    (performDue s = false ∧ ∃ e es, s.script = e :: es ∧ takeEvent e (tick s) = .next t) := by
  unfold step at h
  split at h
  · exact .inl ⟨‹_›, h⟩
  · rename_i hd
    have hd : performDue s = false := by simpa using hd
    unfold hostTurn at h
    split at h
    · rename_i hs
      cases h; exact .inr (.inl ⟨hd, by simpa using hs, rfl⟩)
    · rename_i e es hs
      exact .inr (.inr ⟨hd, e, es, by simpa using hs, h⟩)

/-- STATUS bit 0 is BUSY (R17). -/
@[simp] theorem statusWord_busy (s : State) : (statusWord s).getLsbD 0 = s.busy := by
  have h : (statusWord s).extractLsb' 0 1 = BitVec.ofBool s.busy := BitVec.extractLsb'_append_eq_right
  simpa [BitVec.getLsbD_extractLsb'] using congrArg (fun x => x.getLsbD 0) h

/-- A host read of STATUS outside reset returns the status word (R39). -/
theorem hostRead_status {s : State} (h : s.rst = false) : hostRead statusOff s = statusWord s := by
  simp [hostRead, h, busRead, statusOff, regAt, readReg]

/-- STATUS does not depend on the environment's fields. -/
@[simp] theorem statusWord_tick (s : State) : statusWord (tick s) = statusWord s := rfl
@[simp] theorem statusWord_logRead (off : BitVec 7) (v : Word) (s : State) :
    statusWord (logRead off v s) = statusWord s := rfl
@[simp] theorem statusWord_dropEvent (s : State) : statusWord (dropEvent s) = statusWord s := rfl

/-- A run goes on from the next state of its first step. -/
theorem run_succ {M : Host.Core} {k : Nat} {s t : M.State} (h : M.step s = .next t) :
    M.run (k + 1) s = M.run k t := by
  simp only [Host.Core.run, h]

/-- The same, of this machine. -/
theorem run_succ_next {k : Nat} {s t : State} (h : step s = .next t) :
    Host.Core.run core (k + 1) s = Host.Core.run core k t :=
  run_succ (M := core) h

/-- A run of `j + k` steps is a run of `j` steps and then one of `k`. -/
theorem run_add {M : Host.Core} {j k : Nat} {s t : M.State} (h : M.run j s = .next t) :
    M.run (j + k) s = M.run k t := by
  induction j generalizing s with
  | zero => cases h; simp
  | succ j ih =>
    rw [Nat.succ_add]
    simp only [Host.Core.run] at h ⊢
    cases hs : M.step s with
    | next u => simp only [hs] at h ⊢; exact ih h
    | fault r => simp [hs] at h
    | refused r => simp [hs] at h

/-! ### What leaves the observation of a run alone (R142) -/

@[simp] theorem observation_tick (s : State) : observation (tick s) = observation s := rfl
@[simp] theorem observation_dropEvent (s : State) : observation (dropEvent s) = observation s := rfl
@[simp] theorem observation_releaseReset (s : State) : observation (releaseReset s) = observation s := rfl
@[simp] theorem observation_advanceDraws (s : State) : observation (advanceDraws s) = observation s := rfl

end Sys2Proof.Machine
end

