-- ==== Sys2Proof/Tests/Slice0.lean ====
section
/-!
SUPPORT. Tests of the model: the well-formedness smoke test, every row's decoding by a word written out from the
spec's encoding, at most two one-step tests a command with results from 95_test_vectors.md, and for every statement
with hypotheses a witness that meets them, at the boundary values of each clause.
-/

namespace Sys2Proof.Tests

open Sys2Proof.Machine

/-! ## Well-formedness smoke -/

/-- A reserved command of the first row whose OP is not 6 or 7 is no command word (R53). -/
theorem test_wf_refuses_reservedOp6to7 :
    wellFormed (.reservedOp6to7 0x5 0 0 0) = false ∧ wellFormed (.reservedOp6to7 0x8 0 0 0) = false := by decide

/-- A reserved command of the second row whose OP is below 8 is no command word (R53). -/
theorem test_wf_refuses_reservedOp8to15 :
    wellFormed (.reservedOp8to15 0x7 0 0 0) = false ∧ wellFormed (.reservedOp8to15 0x0 0 0 0) = false := by decide

/-! ## Decoding: words from R54, R56 and 95_test_vectors.md V60, fields by hand from R47 -/

theorem test_decode_nop : decodeWord 0x00000000 = .nop 0 0 0 := by decide
theorem test_decode_keyexp : decodeWord 0x00C00001 = .keyexp 0 0 192 := by decide
theorem test_decode_keyderive : decodeWord 0x00640002 = .keyderive 0 0 100 := by decide
theorem test_decode_encblk : decodeWord 0x00800003 = .encblk 0 0 128 := by decide
theorem test_decode_ctrseed : decodeWord 0x00000004 = .ctrseed 0 0 0 := by decide
theorem test_decode_xorchunk : decodeWord 0x012C00B5 = .xorchunk 11 0 300 := by decide
theorem test_decode_xorchunk_len31 : decodeWord 0x000001F5 = .xorchunk 31 0 0 := by decide
theorem test_decode_reservedOp6 : decodeWord 0x00000006 = .reservedOp6to7 0x6 0 0 0 := by decide
theorem test_decode_reservedOp15 : decodeWord 0x0080000F = .reservedOp8to15 0xF 0 0 128 := by decide

/-- RSVD is word[15:9]: the word BITS = 1, RSVD = 0x7F, LEN = 0, OP = 5 is 0x0001FE05 (R47). -/
theorem test_decode_rsvd : decodeWord 0x0001FE05 = .xorchunk 0 0x7F 1 := by decide

/-- Three bytes are no command word (R47), and four are read with the lanes of R35. -/
theorem test_decode_bytes :
    decodeBytes [0x05, 0x01, 0x00] = .error .truncated ∧
    decodeBytes [0x05, 0x01, 0x00, 0x00] = .ok (.xorchunk 16 0 0, []) := ⟨rfl, rfl⟩

/-- The opcode table's words: a 32-bit row is read, a longer one is no command. -/
theorem test_decode_table :
    decodeTableWord 32 0x00000105 = some (.xorchunk 16 0 0) ∧ decodeTableWord 64 0x105 = none := by decide

/-! ## One command, one step -/

/-- A field of the state after one step; none where the step does not answer a next state. -/
def after {α : Type} (s : State) (f : State → α) : Option α :=
  match step s with
  | .next t => some (f t)
  | .fault _ => none
  | .refused _ => none

/-- A state in which the command word `w` is due to be performed. -/
def due (s : State) (w : Nat) : State := s.withFetchWord 32 w

/-- The key text "0123456789ABCDEF" in the KEY registers (95_test_vectors.md section 2.4). -/
def keyed : State :=
  { State.reset with key := #v[0x33323130, 0x37363534, 0x42413938, 0x46454443, 0, 0, 0, 0] }

/-- The schedule of a 16-byte key is loaded. -/
def loaded (key : List Byte) : State := loadSchedule (keyExpansion key) State.reset

/-- The derived key of "0123456789ABCDEF" (95_test_vectors.md section 2.4). -/
def derivedK16 : List Byte :=
  [0x8d, 0x83, 0x5d, 0x0c, 0xff, 0xd8, 0xba, 0xd5, 0x85, 0xfe, 0x8b, 0x42, 0x94, 0xc4, 0x21, 0x88]

/-- The state of V33: the derived key's schedule, the nonce n0 and a block index. -/
def streaming (lo hi : Word) : State :=
  { loaded derivedK16 with nonceLo := 0xcfe56800, nonceHi := 0x0000018b, ctrLo := lo, ctrHi := hi }

/-- NOP clears an error code (R100's worked example). -/
theorem test_nop_clears_error :
    after (due { State.reset with err := .errBits } 0x00000000) statusWord = some 0x00000000 := by decide +kernel

/-- V60 and section 2.2: `KEYEXP 128` after reset. -/
theorem test_keyexp_zero_key :
    after (due State.reset 0x00800001) (fun t => (statusWord t, t.sched[43])) =
      some (0x00000A02, ⟨0x6f, 0x8f, 0x18, 0x8e⟩) := by decide +kernel

/-- Section 2.2: `KEYEXP 256` runs the extra SubWord step of Nk = 8. -/
theorem test_keyexp_256 :
    after (due State.reset 0x01000001) (fun t => (statusWord t, t.sched[59])) =
      some (0x00000E02, ⟨0xcb, 0x70, 0x63, 0x85⟩) := by decide +kernel

/-- Section 2.4: `KEYDERIVE 128` of "0123456789ABCDEF". -/
theorem test_keyderive_k16 :
    after (due keyed 0x00800002) (fun t => (t.sched[0], t.sched[43], t.nri)) =
      some (⟨0x8d, 0x83, 0x5d, 0x0c⟩, ⟨0xcd, 0x94, 0xd9, 0x0d⟩, 10#4) := by decide +kernel

/-- Section 2.4: `KEYDERIVE 129` is ERR_BITS although 129/8 truncates to 16. -/
theorem test_keyderive_129 : after (due keyed 0x00810002) statusWord = some 0x00000010 := by decide +kernel

/-- V1: the zero block under the zero key. -/
theorem test_encblk_conformance :
    after (due (loaded (List.replicate 16 0)) 0x00000003) (fun t => (t.dout, statusWord t)) =
      some (#v[0xd44be966, 0x3b2c8aef, 0x59fa4c88, 0x2e2b34ca], 0x00100A02) := by decide +kernel

/-- V8: `ENCBLK` after reset. -/
theorem test_encblk_no_key : after (due State.reset 0x00000003) statusWord = some 0x00000020 := by decide +kernel

/-- V31: the nonce of T = 1700000000000. -/
theorem test_ctrseed_nonce :
    (seedNonce 1700000000000#64 State.reset).nonceLo = 0xcfe56800 ∧
    (seedNonce 1700000000000#64 State.reset).nonceHi = 0x0000018b := by decide +kernel

/-- CTRSEED needs no key, ends in OK and restarts the block index (R94, V31). -/
theorem test_ctrseed_restarts :
    after (due { State.reset with ctrLo := 7, ctrHi := 9 } 0x00000004) (fun t => (statusWord t, ctr t)) =
      some (0x00000000, 0) := by decide +kernel

/-- V33, first row: "HELLO WORLD". -/
theorem test_xorchunk_hello :
    after (due { streaming 0 0 with din := #v[0x4c4c4548, 0x4f57204f, 0x00444c52, 0] } 0x000000B5)
      (fun t => (t.dout, t.outLen, ctr t)) =
      some (#v[0xdf31485a, 0xd190dffb, 0x003a8953, 0x00000000], 11#5, 1) := by decide +kernel

/-- V33, fourth row: the carry from CTR_LO into CTR_HI. -/
theorem test_xorchunk_carry :
    after (due (streaming 0xffffffff 0) 0x00000105)
      (fun t => (t.ctrLo, t.ctrHi, (doutB t).c0)) =
      some (0x00000000, 0x00000001, ⟨0x4d, 0x97, 0xf2, 0xfd⟩) := by decide +kernel

/-- V60: OP = 6. -/
theorem test_reservedOp6 : after (due State.reset 0x00000006) statusWord = some 0x00000040 := by decide +kernel

/-- V60: OP = 15 with BITS = 128, OP is checked first. -/
theorem test_reservedOp15 : after (due State.reset 0x0080000F) statusWord = some 0x00000040 := by decide +kernel

/-! ## The host port (95_test_vectors.md V61) and the calls (V40, V52, V53, V58) -/

/-- The machine after reset with a host's script. -/
def hosted (es : List Event) : State := { State.reset with script := es }

/-- A command is pending with `n` intervals to go. -/
def pending (w : Word) (n : Nat) (es : List Event) : State :=
  { hosted es with pend := w, busy := true, wait := n }

/-- V61: an 8-bit write at 0x40 and a 32-bit read at 0x42 are bus errors. -/
theorem test_bus_errors :
    step (hosted [.write 1 0x40 0xFF]) = .fault (.busError 0x40) ∧
    step (hosted [.read 4 0x42]) = .fault (.busError 0x42) := ⟨rfl, rfl⟩

/-- V61: a write to DOUT0 while BUSY = 1 sets OVR and leaves DOUT. -/
theorem test_write_dout_while_busy :
    after (pending 0 1 [.write 4 0x50 0x12345678]) (fun t => (t.ovr, t.dout[0], t.busy)) =
      some (true, 0, true) := by decide +kernel

/-- V61: a write of 0x00000004 to STATUS while BUSY = 1 clears OVR. -/
theorem test_status_w1c :
    after { pending 0 1 [.write 4 0x04 0x00000004] with ovr := true } (fun t => (t.ovr, t.busy)) =
      some (false, true) := by decide +kernel

/-- V40: the ciphertext of "HELLO WORLD" at T0, its second token 5a4831dffbdf90d153893a. -/
theorem test_encrypt_hello :
    (encryptBytes ((List.range 10).map (fun i => BitVec.ofNat 8 (0x30 + i)) ++
        [0x41, 0x42, 0x43, 0x44, 0x45, 0x46])
      [0x48, 0x45, 0x4c, 0x4c, 0x4f, 0x20, 0x57, 0x4f, 0x52, 0x4c, 0x44] 1700000000000#64).drop 17 =
    hex [0x5a, 0x48, 0x31, 0xdf, 0xfb, 0xdf, 0x90, 0xd1, 0x53, 0x89, 0x3a] := by decide +kernel

/-- V58: a trailing space, and a non-hex digit, make a ciphertext malformed. -/
theorem test_malformed :
    cipherTextOk (hex (List.replicate 8 0) ++ [0x20]) = false ∧
    cipherTextOk (hex (List.replicate 8 0) ++ [0x20, 0x67, 0x30]) = false ∧
    cipherTextOk (hex (List.replicate 8 0)) = true := by decide

/-! ## Witnesses: for every statement with hypotheses, values that meet them, at the boundaries of each clause -/

theorem test_witness_DecodeEncodeRoundTrip :
    WellFormed (.reservedOp6to7 0x7 31 0x7F 0xFFFF) ∧ WellFormed (.reservedOp8to15 0x8 0 0 0) ∧
    WellFormed (.xorchunk 31 0x7F 0xFFFF) := by decide

theorem test_witness_IgnoredFieldsHaveNoEffect :
    (fieldOp 0x00000105 = fieldOp 0x0000FF05 ∧ fieldLen 0x00000105 = fieldLen 0x0000FF05 ∧
      fieldBits 0x00000105 = fieldBits 0x0000FF05) ∧
    (fieldOp 0x00800003 = fieldOp 0xFFFFFFF3 ∧ (fieldOp 0x00800003).toNat ≠ 5 ∧
      (fieldOp 0x00800003).toNat ≠ 1 ∧ (fieldOp 0x00800003).toNat ≠ 2) := by decide

theorem test_witness_StepPerformsPendingCommand :
    ((pending 0 0 []).rst = false ∧ (pending 0 0 []).busy = true ∧ (pending 0 0 []).wait = 0) ∧
    (pending 0 1 []).wait ≠ 0 ∧ (hosted []).busy = false ∧ { hosted [] with rst := true }.rst = true := by
  decide

theorem test_witness_EveryWordIsAcceptedAndPerformed :
    (hosted [.write 4 0x00 6]).rst = false ∧ (hosted [.write 4 0x00 6]).busy = false := by decide

theorem test_witness_PendingCommandIsUndisturbed :
    (pending 0 1 [.write 4 0x00 6]).busy = true ∧ (pending 0 1 [.write 4 0x00 6]).rst = false ∧
    (pending 0 1 [.write 4 0x00 6]).wait ≠ 0 ∧
    (pending 0 1 [.write 4 0x00 6]).script.head? ≠ some .resetOn ∧
    ∃ t, step (pending 0 1 [.write 4 0x00 6]) = .next t :=
  ⟨rfl, rfl, by decide, by decide, _, rfl⟩

theorem test_witness_PollTerminates :
    (pending 0x105 0 [.poll]).rst = false ∧ (pending 0x105 3 [.poll]).busy = true ∧
    (pending 0x105 3 [.poll]).script = .poll :: [] := by decide

theorem test_witness_ConformingHostNeverOverruns :
    conforming false (hosted [wr 0x40 1, wr 0x00 3, .poll, rd 0x50, wr 0x00 0, wr 0x04 4, .resetOn]).script = true ∧
    (pending 0 2 [.poll]).busy = true ∧ conforming true (pending 0 2 [.poll]).script = true ∧
    (pending 0 2 [.poll]).rst = false ∧ (pending 0 2 [.poll]).ovr = false := by decide

theorem test_witness_NopMeaning :
    (pending 0 0 []).busy = true ∧
    statusWord { { pending 0 0 [] with err := .errBits } with busy := false } = 0x00000010 := by decide

theorem test_witness_ReservedOpMeaning :
    6 ≤ (0x00000006 : Word).toNat % 16 ∧ 6 ≤ (0xFFFFFFFF : Word).toNat % 16 := by decide

theorem test_witness_KeyCommandsRejectOtherBits :
    (127#16).toNat ≠ 128 ∧ (129#16).toNat ≠ 128 ∧ (0#16).toNat ≠ 192 ∧ (65535#16).toNat ≠ 256 ∧
    (100#16).toNat ≠ 128 ∧ (100#16).toNat ≠ 192 ∧ (100#16).toNat ≠ 256 := by decide

theorem test_witness_EncblkMeaning :
    (loaded (List.replicate 16 0)).keyValid = true ∧ State.reset.keyValid = false := by decide

theorem test_witness_XorchunkMeaning :
    1 ≤ (1#5).toNat ∧ (1#5).toNat ≤ 16 ∧ 1 ≤ (16#5).toNat ∧ (16#5).toNat ≤ 16 ∧
    (loaded (List.replicate 16 0)).keyValid = true := by decide

theorem test_witness_XorchunkErrors :
    (0#5).toNat = 0 ∧ 17 ≤ (17#5).toNat ∧ 17 ≤ (31#5).toNat ∧
    (1 ≤ (16#5).toNat ∧ (16#5).toNat ≤ 16 ∧ State.reset.keyValid = false) := by decide

theorem test_witness_KeyexpAndKeyderive : (16 = 16 ∨ 16 = 24 ∨ 16 = 32) ∧ BitVec.ofNat 16 (8 * 32) = 256#16 := by
  decide

theorem test_witness_ErrorChangesNothingElse :
    ∃ t, exec (.encblk 0 0 0) State.reset = .next t ∧ t.err ≠ .ok := ⟨_, rfl, by decide⟩

theorem test_witness_NoCommandChangesKeyDinOvr :
    ∃ t, exec (.keyexp 0 0 128) State.reset = .next t := ⟨_, rfl⟩

theorem test_witness_FrameOfNopKeyAndReserved :
    (∃ t, exec (.nop 0 0 0) State.reset = .next t) ∧ (∃ t, exec (.keyexp 0 0 100) State.reset = .next t) ∧
    (∃ t, exec (.keyderive 0 0 192) State.reset = .next t) ∧
    (∃ t, exec (.reservedOp6to7 6 0 0 0) State.reset = .next t) ∧
    (∃ t, exec (.reservedOp8to15 8 0 0 0) State.reset = .next t) ∧ (0x08 : BitVec 7) ≠ 0x04 :=
  ⟨⟨_, rfl⟩, ⟨_, rfl⟩, ⟨_, rfl⟩, ⟨_, rfl⟩, ⟨_, rfl⟩, by decide⟩

theorem test_witness_FrameOfBlockAndStream :
    (∃ t, exec (.encblk 0 0 0) (loaded []) = .next t) ∧ (∃ t, exec (.ctrseed 0 0 0) State.reset = .next t) ∧
    (∃ t, exec (.xorchunk 16 0 0) (loaded []) = .next t) ∧
    (0x4C : BitVec 7).toNat < 0x50 ∧ 0x60 ≤ (0x60 : BitVec 7).toNat ∧ (0x00 : BitVec 7).toNat < 0x08 ∧
    0x18 ≤ (0x18 : BitVec 7).toNat ∧ (0x10 : BitVec 7) ≠ 0x04 ∧ (0x10 : BitVec 7) ≠ 0x08 ∧
    (0x10 : BitVec 7) ≠ 0x0C :=
  ⟨⟨_, rfl⟩, ⟨_, rfl⟩, ⟨_, rfl⟩, by decide⟩

/-- Each of the four causes moves CTR: XORCHUNK, CTRSEED, a host write, reset. -/
theorem test_witness_OnlyTheseEventsMoveCtr :
    after (due (loaded (List.replicate 16 0)) 0x105) ctr = some 1 ∧
    after (due { State.reset with ctrLo := 7 } 0x4) ctr = some 0 ∧
    after (hosted [wr 0x0C 1]) ctr = some 0x100000000 ∧
    after { hosted [.resetOn] with ctrLo := 7 } ctr = some 0 := by decide +kernel

/-- A step that keeps the schedule, one that loads it, and a reset that clears KEYVALID. -/
theorem test_witness_OnlyKeyCommandsAndResetMoveTheSchedule :
    after (hosted [.idle]) State.keyValid = some false ∧
    after (due State.reset 0x00800001) State.keyValid = some true ∧
    after { loaded (List.replicate 16 0) with script := [.resetOn] } State.keyValid = some false := by
  decide +kernel

theorem test_witness_XtimeAndRoundConstants : 1 ≤ 1 ∧ 9 < 10 ∧ 1 ≤ 10 ∧ 10 ≤ 10 := by decide

theorem test_witness_SboxIsAffineOfInverse :
    (0x53 : Byte) ≠ 0 ∧ gmul 0x53 0xCA = 0x01 ∧ sbox 0x53 = sboxAffine 0xCA ∧ 7 < 8 := by decide

theorem test_witness_SboxIsPermutation : sbox 0x53 = sbox 0x53 := rfl

theorem test_witness_KeyExpansionRecurrence :
    (List.replicate 16 (0 : Byte)).length = 4 * 4 ∧ (List.replicate 24 (0 : Byte)).length = 4 * 6 ∧
    (List.replicate 32 (0 : Byte)).length = 4 * 8 ∧ 59 < 4 * (8 + 7) ∧ 40 % 4 = 0 := by decide

theorem test_witness_RoundTransformsByteByByte : 0 < 4 ∧ 3 < 4 := by decide

theorem test_witness_CipherRunsItsRounds : 1 ≤ 1 ∧ 9 < 10 := by decide

/-- Two schedules that differ only in a stale word. -/
theorem test_witness_StaleScheduleWordsAreUnobservable :
    (loaded (List.replicate 16 0)).nri = 10#4 ∧
    (∀ i < 44, ((loaded (List.replicate 16 0)).sched.set 44 ⟨1, 2, 3, 4⟩).toList.getD i default =
      (loaded (List.replicate 16 0)).sched.toList.getD i default) := by decide +kernel

theorem test_witness_DeriveKeyWrapsAround :
    (List.replicate 16 (0 : Byte)).length = 16 ∧ (List.replicate 24 (0 : Byte)).length = 24 ∧
    (List.replicate 32 (0 : Byte)).length = 32 ∧ 16 ≤ 16 ∧ 31 < 32 := by decide

theorem test_witness_CounterBlockLayout : 7 < 8 ∧ 3 < 4 := by decide

/-- Two DIN that differ only above LEN = 1, and two KEY that differ only above N = 16. -/
theorem test_witness_UnreadInputsHaveNoEffect :
    (∀ i < (1#5).toNat, (blockOfRegs #v[0x00000100, 0, 0, 0]).get i = (dinB State.reset).get i) ∧
    opcode (.encblk 0 0 0) ≠ 0x1 ∧ opcode (.encblk 0 0 0) ≠ 0x2 ∧
    (keyB { State.reset with key := #v[0, 0, 0, 0, 1, 0, 0, 0] }).take 16 = (keyB State.reset).take 16 := by
  decide +kernel

theorem test_witness_BusReadTable :
    (0x3C : BitVec 7).toNat % 4 = 0 ∧ 0x20 ≤ (0x20 : BitVec 7).toNat ∧ (0x3C : BitVec 7).toNat < 0x40 ∧
    0x60 ≤ (0x7C : BitVec 7).toNat := by decide

theorem test_witness_BusWriteWhileIdle :
    State.reset.busy = false ∧ (0x50 : BitVec 7).toNat % 4 = 0 ∧ 0x50 ≤ (0x7C : BitVec 7).toNat := by decide

theorem test_witness_WritesWhileBusyAndToStatus :
    (0x18 : BitVec 7).toNat % 4 = 0 ∧ (0x18 : BitVec 7) ≠ 0x04 ∧ (pending 0 1 []).busy = true := by decide

theorem test_witness_ByteLanes :
    3 < 4 ∧ keyed.key = #v[0x33323130, 0x37363534, 0x42413938, 0x46454443, 0, 0, 0, 0] := by decide

theorem test_witness_BusErrorsAndReadsWithoutSideEffect :
    performDue (hosted [.read 2 0x04]) = false ∧ performDue (pending 0 1 [.read 4 0x7C]) = false ∧
    (2 ≠ 4 ∨ (0x04 : BitVec 7).toNat % 4 ≠ 0) ∧ (0x42 : BitVec 7).toNat % 4 ≠ 0 ∧
    (hosted [.write 1 0x40 0]).script = .write 1 0x40 0 :: [] ∧ (0x7C : BitVec 7).toNat % 4 = 0 := by decide

theorem test_witness_WindowAddresses :
    offsetOf (addressOf 0x7C) = some 0x7C ∧ Config.base + 0x80 ≤ Config.base + 0x80 := by
  simp [offsetOf, addressOf]

theorem test_witness_ResetValues : (0x7C : BitVec 7).toNat % 4 = 0 := by decide

theorem test_witness_ResetDiscardsThePendingCommand :
    performDue (pending 0 1 [.resetOn]) = false ∧ (pending 0 1 [.resetOn]).script = .resetOn :: [] ∧
    (assertReset State.reset).rst = true ∧ (0x04 : BitVec 7).toNat % 4 = 0 := by decide

/-- The invariant has a state with a step: the state after reset with a host's read to come. -/
theorem test_witness_StepKeepsTheInvariant :
    MachineInv (hosted [.read 4 0x04]) ∧ ∃ t, step (hosted [.read 4 0x04]) = .next t :=
  ⟨⟨⟨by decide, fun _ => rfl, by decide, by decide⟩, (fun h => by cases h), fun _ => ⟨rfl, rfl, rfl⟩,
    (fun h => by cases h)⟩, _, rfl⟩

/-- A run whose last access is past is over beside later intervals and reset edges; one with an access to come or a
command pending is not (R142). -/
theorem test_witness_EndedRunStaysEnded :
    runEnded (hosted [.idle, .resetOn, .resetOff]) = true ∧
    (hosted [.idle, .resetOn, .resetOff]).script.head? ≠ some .resetOn ∧
    runEnded (hosted [.resetOn]) = true ∧ runEnded (hosted []) = true ∧
    runEnded (hosted [.idle, .poll]) = false ∧ runEnded { hosted [] with busy := true } = false := by decide

/-- Two different states with one observation, and two that differ in KEY alone with two (R26, R142). -/
theorem test_witness_ObservationFixesTheRegisters :
    State.reset ≠ { State.reset with pend := 0x5, rst := true } ∧
    observation State.reset = observation { State.reset with pend := 0x5, rst := true } ∧
    observation State.reset ≠ observation { State.reset with key := State.reset.key.set 0 0x33323130 } := by
  decide

theorem test_witness_ChunksPartitionTheMessage :
    0 + 1 < (chunksOf (List.replicate 17 0)).length ∧ [0] ∈ chunksOf (List.replicate 17 0) := by decide

/-- A key text and plaintext texts for each clause of the calls' checks. -/
theorem test_witness_CallChecksInOrder :
    (100 : Int) ≠ 128 ∧ (100 : Int) ≠ 192 ∧ (100 : Int) ≠ 256 ∧
    (List.replicate 15 0x30).length < (128 : Int).toNat / 8 ∧
    255 < 256 ∧ (256 : Nat) ∈ (List.replicate 15 0x30 ++ [256]).take ((128 : Int).toNat / 8) ∧
    (128 : Int).toNat / 8 ≤ (List.replicate 16 0x30).length ∧
    (∀ c ∈ (List.replicate 16 0xFF).take ((128 : Int).toNat / 8), c ≤ 255) ∧
    (0x20AC : Nat) ∈ [0x20AC] ∧ 255 < 0x20AC ∧ (∀ c ∈ [0xFF], c ≤ 255) ∧
    cipherTextOk [] = false ∧ cipherTextOk (List.replicate 16 0x30) = true := by decide

theorem test_witness_DecryptUndoesEncrypt :
    ∃ c, encrypt [0x48] (List.replicate 16 0x30) 128 0 = .next c := ⟨_, rfl⟩

theorem test_witness_EncryptAgreesWithHostSequence :
    (hosted (encryptEvents (keyTextBytes 16 (List.replicate 16 0x30)) (textBytes [0x48]))).busy = false ∧
    (hosted (encryptEvents (keyTextBytes 16 (List.replicate 16 0x30)) (textBytes [0x48]))).rst = false ∧
    (128 : Int).toNat / 8 = 16 ∧ (List.replicate 16 0x30).length = 16 ∧
    (∀ c ∈ List.replicate 16 0x30, c ≤ 255) ∧ (∀ c ∈ [0x48], c ≤ 255) := by decide

theorem test_witness_DecryptAgreesWithHostSequence :
    (hosted (decryptEvents (keyTextBytes 16 (List.replicate 16 0x30)) (List.replicate 16 0x30))).busy = false ∧
    (hosted (decryptEvents (keyTextBytes 16 (List.replicate 16 0x30)) (List.replicate 16 0x30))).rst = false ∧
    (128 : Int).toNat / 8 = 16 ∧ (List.replicate 16 0x30).length = 16 ∧
    (∀ c ∈ List.replicate 16 0x30, c ≤ 255) ∧ cipherTextOk (List.replicate 16 0x30) = true := by decide

end Sys2Proof.Tests
end

/-!
PROOFS. The state: what a step can do to the engine's results and to a pending command, the layout of STATUS, and the
machine's invariant (spec 10_state.md).
-/

namespace Sys2Proof.Machine

/-! ### STATUS and its write (R15, R17, R20) -/

/-- A write of STATUS, said without the case split on bit 2 (R17). -/
theorem writeStatus_eq (v : Word) (s : State) : writeStatus v s = { s with ovr := s.ovr && !v.getLsbD 2 } := by
  unfold writeStatus; cases v.getLsbD 2 <;> simp

/-- STATUS stands at one offset of the window (R15). -/
theorem regAt_eq_status_iff (off : BitVec 7) : regAt off = .status ↔ off = statusOff := by
  revert off; decide

/-! The lemmas on STATUS name the width of each part they skip: 32 is the sum of the parts' widths only by computation,
so the library's lemmas on `++` do not find it themselves. -/

@[simp] theorem statusWord_keyValid (s : State) : (statusWord s).getLsbD 1 = s.keyValid := by
  simp only [statusWord, BitVec.getLsbD_append (m := 1)]
  simp

@[simp] theorem statusWord_ovr (s : State) : (statusWord s).getLsbD 2 = s.ovr := by
  simp only [statusWord, BitVec.getLsbD_append (m := 1)]
  simp

@[simp] theorem statusWord_err (s : State) : (statusWord s).extractLsb' 4 4 = s.err.number := by
  simp [statusWord, BitVec.extractLsb'_append_eq_of_le (w := 1), BitVec.extractLsb'_append_eq_right (w' := 4)]

@[simp] theorem statusWord_nri (s : State) : (statusWord s).extractLsb' 8 4 = s.nri := by
  simp [statusWord, BitVec.extractLsb'_append_eq_of_le (w := 1), BitVec.extractLsb'_append_eq_of_le (w := 4),
    BitVec.extractLsb'_append_eq_right (w' := 4)]

@[simp] theorem statusWord_outLen (s : State) : (statusWord s).extractLsb' 16 5 = s.outLen := by
  simp [statusWord, BitVec.extractLsb'_append_eq_of_le (w := 1), BitVec.extractLsb'_append_eq_of_le (w := 4),
    BitVec.extractLsb'_append_eq_right (w' := 5)]

theorem statusWord_reserved_3 (s : State) : (statusWord s).getLsbD 3 = false := by
  simp only [statusWord, BitVec.getLsbD_append (m := 1)]
  simp

theorem statusWord_reserved_15_12 (s : State) : (statusWord s).extractLsb' 12 4 = 0#4 := by
  simp [statusWord, BitVec.extractLsb'_append_eq_of_le (w := 1), BitVec.extractLsb'_append_eq_of_le (w := 4),
    BitVec.extractLsb'_append_eq_right (w' := 4)]

theorem statusWord_reserved_31_21 (s : State) : (statusWord s).extractLsb' 21 11 = 0#11 := by
  simp [statusWord, BitVec.extractLsb'_append_eq_of_le (w := 1), BitVec.extractLsb'_append_eq_of_le (w := 4),
    BitVec.extractLsb'_append_eq_of_le (w := 5)]

/-- Settles O41, field by field. -/
theorem statusLayout : Obligations.StatusLayout := fun s =>
  ⟨statusWord_busy s, statusWord_keyValid s, statusWord_ovr s, statusWord_reserved_3 s, statusWord_err s,
    statusWord_nri s, statusWord_reserved_15_12 s, statusWord_outLen s, statusWord_reserved_31_21 s⟩

/-- Settles O44: the offset decides which of the two writes it is. -/
theorem writesWhileBusyAndToStatus : Obligations.WritesWhileBusyAndToStatus := by
  intro s v
  constructor
  · intro off _ hoff hb
    have hreg : regAt off ≠ .status := mt (regAt_eq_status_iff off).mp hoff
    rw [busWrite, if_neg hreg, if_pos hb, dropWrite]
  · have hreg : regAt 0x04 = .status := (regAt_eq_status_iff 0x04).mpr rfl
    rw [busWrite, if_pos hreg, writeStatus_eq]

/-! ### The results: the registers that only a performed command or reset moves (R19, R21, R22, R23, R28, R29) -/

/-- What performed commands have left in the engine, apart from CTR and NONCE, which the host writes too. -/
structure Results where
  keyValid : Bool
  sched : Vector SWord 60
  nri : BitVec 4
  err : ResultCode
  outLen : BitVec 5
  dout : Vector Word 4

/-- The results that stand in a state. -/
def results (s : State) : Results where
  keyValid := s.keyValid
  sched := s.sched
  nri := s.nri
  err := s.err
  outLen := s.outLen
  dout := s.dout

theorem results_eq_iff {s t : State} :
    results t = results s ↔ t.keyValid = s.keyValid ∧ t.sched = s.sched ∧ t.nri = s.nri ∧ t.err = s.err ∧
      t.outLen = s.outLen ∧ t.dout = s.dout := by
  simp [results]

@[simp] theorem results_tick (s : State) : results (tick s) = results s := rfl
@[simp] theorem results_dropEvent (s : State) : results (dropEvent s) = results s := rfl
@[simp] theorem results_logRead (off : BitVec 7) (v : Word) (s : State) :
    results (logRead off v s) = results s := rfl
@[simp] theorem results_releaseReset (s : State) : results (releaseReset s) = results s := rfl
@[simp] theorem results_dropWrite (s : State) : results (dropWrite s) = results s := rfl

@[simp] theorem results_pollOnce (s : State) : results (pollOnce s) = results s := by
  unfold pollOnce; split <;> rfl

@[simp] theorem results_writeStatus (v : Word) (s : State) : results (writeStatus v s) = results s := by
  rw [writeStatus_eq]; rfl

/-- No register's write reaches a result (R15, R39). -/
@[simp] theorem results_writeReg (v : Word) (s : State) (r : Reg) : results (writeReg v s r) = results s := by
  cases r <;> rfl

@[simp] theorem results_hostWrite (off : BitVec 7) (v : Word) (s : State) :
    results (hostWrite off v s) = results s := by
  obtain ⟨-, h⟩ | ⟨-, -, h⟩ | ⟨-, -, -, h⟩ | ⟨-, -, -, h⟩ := hostWrite_cases off v s <;> simp [h]

/-- Of all events only the assertion of reset moves the results. -/
theorem results_takeEvent {e : Event} {s t : State} (h : takeEvent e s = .next t) :
    results t = results s ∨ (e = .resetOn ∧ results t = results State.reset) := by
  obtain ⟨bytes, off, rfl, -, rfl⟩ | ⟨bytes, off, v, rfl, -, rfl⟩ | ⟨rfl, rfl⟩ | ⟨rfl, rfl⟩ | ⟨rfl, rfl⟩ |
    ⟨rfl, rfl⟩ := takeEvent_next h
  case inr.inr.inr.inr.inl => exact .inr ⟨rfl, rfl⟩
  all_goals exact .inl (by simp)

/-! ### The frame of a perform step (R18, R20, R26, R27) -/

/-- Settles O23: each way a command can end is built from operations that leave these fields alone, and ends with
BUSY = 0. -/
theorem noCommandChangesKeyDinOvr : Obligations.NoCommandChangesKeyDinOvr := by
  intro i s t h
  cases exec_performed h with
  | nop | error | key | block | seed | stream => simp

/-! ### KEYVALID, SCHED and NRI (R19, R22, R29) -/

/-- A perform step keeps the schedule registers, or it is a successful key command's and sets KEYVALID. -/
theorem Performed.schedule {i : Instr} {s t : State} (h : Performed i s t) :
    (t.keyValid = s.keyValid ∧ t.sched = s.sched ∧ t.nri = s.nri) ∨
    ((opcode i = 0x1 ∨ opcode i = 0x2) ∧ t.err = .ok ∧ t.keyValid = true) := by
  cases h with
  | key hi => exact .inr ⟨hi, rfl, rfl⟩
  | nop | error | block | seed | stream => exact .inl ⟨rfl, rfl, rfl⟩

/-- Settles O27: the perform step by `Performed.schedule`, any other step by what an event does to the results. -/
theorem onlyKeyCommandsAndResetMoveTheSchedule : Obligations.OnlyKeyCommandsAndResetMoveTheSchedule := by
  intro s t h
  obtain ⟨hd, h⟩ | ⟨-, -, rfl⟩ | ⟨hd, e, es, hs, h⟩ := step_next h
  · obtain hkeep | ⟨hop, herr, hkv⟩ := (exec_performed h).schedule
    · exact .inl hkeep
    · rw [pendingCommand, opcode_decodeWord] at hop
      exact .inr (.inl ⟨hd, hop.imp (congrArg BitVec.toNat) (congrArg BitVec.toNat), herr, hkv⟩)
  · exact .inl ⟨rfl, rfl, rfl⟩
  · obtain hkeep | ⟨rfl, hreset⟩ := results_takeEvent h
    · obtain ⟨hkv, hsched, hnri, -⟩ := results_eq_iff.mp hkeep
      exact .inl ⟨hkv, hsched, hnri⟩
    · obtain ⟨hkv, -, hnri, -⟩ := results_eq_iff.mp hreset
      exact .inr (.inr ⟨hd, by simp [hs], hkv, hnri⟩)

/-! ### A pending command (R18, R43, R45) -/

/-- While a command is pending, an event other than an assertion of reset reaches only OVR, the events to come and
the reads. -/
theorem takeEvent_while_busy {e : Event} {s t : State} (h : takeEvent e s = .next t) (hb : s.busy = true)
    (hr : s.rst = false) (he : e ≠ .resetOn) :
    t = { s with ovr := t.ovr, script := t.script, reads := t.reads } := by
  obtain ⟨bytes, off, -, -, rfl⟩ | ⟨bytes, off, v, -, -, rfl⟩ | ⟨-, rfl⟩ | ⟨-, rfl⟩ | ⟨rfl, -⟩ | ⟨-, rfl⟩ :=
    takeEvent_next h
  · rfl
  · obtain ⟨hr', -⟩ | ⟨-, -, hw⟩ | ⟨-, -, -, hw⟩ | ⟨-, -, hb', -⟩ := hostWrite_cases off v s
    · simp [hr] at hr'
    · rw [hw, writeStatus_eq]; rfl
    · rw [hw]; rfl
    · simp [hb] at hb'
  · rw [pollOnce]; split <;> rfl
  · rfl
  · exact absurd rfl he
  · simp [dropEvent, releaseReset, hr]

/-- Settles O9: with intervals left no perform step is due, so the step is a wait or one event. -/
theorem pendingCommandIsUndisturbed : Obligations.PendingCommandIsUndisturbed := by
  intro s t hb hr hw hhead h
  obtain ⟨hd, -⟩ | ⟨-, -, rfl⟩ | ⟨-, e, es, hs, h⟩ := step_next h
  · exact absurd (performDue_iff.mp hd).2.2 hw
  · rfl
  · have he : e ≠ .resetOn := by simpa [hs] using hhead
    exact takeEvent_while_busy h hb hr he

/-! ### The invariant (R19, R22, R23, R29, R131, R132) -/

/-- The clauses of the invariant that speak of the results. -/
def ResultsLegal (s : State) : Prop :=
  StatusLegal s ∧ (s.keyValid = true → ScheduleComplete s) ∧ NoKeyNoOutput s

theorem machineInv_iff {s : State} : MachineInv s ↔ ResultsLegal s ∧ ResetHolds s := by
  simp [MachineInv, ResultsLegal, and_assoc]

/-- `ResultsLegal` speaks of nothing but the results. -/
theorem ResultsLegal.congr {s t : State} (hs : ResultsLegal s) (h : results t = results s) : ResultsLegal t := by
  obtain ⟨hkv, hsched, hnri, herr, hlen, hdout⟩ := results_eq_iff.mp h
  simpa only [ResultsLegal, StatusLegal, ScheduleComplete, NoKeyNoOutput, hkv, hsched, hnri, herr, hlen, hdout]
    using hs

theorem resultsLegal_reset : ResultsLegal State.reset :=
  ⟨⟨nofun, fun _ => rfl, by decide, fun h => absurd rfl h⟩, nofun, fun _ => ⟨rfl, rfl, rfl⟩⟩

theorem resultsLegal_complete {s : State} (hs : ResultsLegal s) : ResultsLegal (complete s) := by
  obtain ⟨⟨hrounds, hnone, hlen, -⟩, hsched, hout⟩ := hs
  exact ⟨⟨hrounds, hnone, hlen, fun h => absurd rfl h⟩, hsched, hout⟩

theorem resultsLegal_endError {s : State} (c : ResultCode) (hs : ResultsLegal s) : ResultsLegal (endError c s) := by
  obtain ⟨⟨hrounds, hnone, -, -⟩, hsched, hout⟩ := hs
  refine ⟨⟨hrounds, hnone, by simp, fun _ => rfl⟩, hsched, fun hk => ?_⟩
  obtain ⟨hw, hd, -⟩ := hout hk
  exact ⟨hw, hd, rfl⟩

/-- With a schedule loaded, a block of at most 16 bytes may go to DOUT (R82, R95). -/
theorem resultsLegal_complete_putDout {s : State} (b : Block) {n : BitVec 5} (hs : ResultsLegal s)
    (hv : s.keyValid = true) (hn : n.toNat ≤ 16) : ResultsLegal (complete (putDout b n s)) := by
  obtain ⟨⟨hrounds, hnone, -, -⟩, hsched, -⟩ := hs
  refine ⟨⟨hrounds, hnone, hn, fun h => absurd rfl h⟩, hsched, fun hk => ?_⟩
  simp [hv] at hk

/-- A stored schedule is what SCHED's leading words then hold (R29, R72). -/
theorem take_storeSchedule (w : List SWord) (old : Vector SWord 60) (h : w.length ≤ 60) :
    (storeSchedule w old).toList.take w.length = w := by
  refine List.ext_getElem (by simp [h]) fun i _ hi => ?_
  have hi' : i < 60 := by omega
  simp [storeSchedule_get w old i hi', hi]

/-- NRI's four bits hold the round count of every accepted key length (R22, R67). -/
theorem loadSchedule_keyExpansion_nri {raw : List Byte} (s : State)
    (hr : raw.length = 16 ∨ raw.length = 24 ∨ raw.length = 32) :
    (loadSchedule (keyExpansion raw) s).nri.toNat = raw.length / 4 + 6 := by
  rw [loadSchedule_nri, keyExpansion_rounds, BitVec.toNat_ofNat, Nat.mod_eq_of_lt (by omega)]

/-- A loaded expansion is complete (R19, R29). -/
theorem scheduleComplete_loadSchedule {raw : List Byte} (s : State)
    (hr : raw.length = 16 ∨ raw.length = 24 ∨ raw.length = 32) :
    ScheduleComplete (loadSchedule (keyExpansion raw) s) := by
  have hnri := loadSchedule_keyExpansion_nri s hr
  have hlen := keyExpansion_length raw
  rw [keyExpansion_rounds] at hlen
  refine ⟨raw, by omega, ?_⟩
  rw [hnri, loadSchedule_sched, ← hlen, take_storeSchedule _ _ (by omega)]
  rfl

/-- A key command on a key of 16, 24 or 32 bytes leaves legal results (R72, R89). -/
theorem resultsLegal_complete_loadSchedule {s : State} {raw : List Byte} (hs : ResultsLegal s)
    (hr : raw.length = 16 ∨ raw.length = 24 ∨ raw.length = 32) :
    ResultsLegal (complete (loadSchedule (keyExpansion raw) s)) := by
  obtain ⟨⟨-, -, hlen, -⟩, -, -⟩ := hs
  have hrounds : legalRounds (loadSchedule (keyExpansion raw) s).nri = true := by
    rw [loadSchedule_nri, keyExpansion_rounds]
    obtain h | h | h := hr <;> rw [h] <;> rfl
  exact ⟨⟨fun _ => hrounds, nofun, hlen, fun h => absurd rfl h⟩, fun _ => scheduleComplete_loadSchedule s hr, nofun⟩

/-- Every performed command leaves legal results. -/
theorem resultsLegal_performed {i : Instr} {s t : State} (hs : ResultsLegal s) (h : Performed i s t) :
    ResultsLegal t := by
  cases h with
  | nop => exact resultsLegal_complete hs
  | error c => exact resultsLegal_endError c hs
  | key _ raw n hn hr => exact resultsLegal_complete_loadSchedule hs (by omega)
  | block _ hv => exact resultsLegal_complete_putDout _ hs hv (by decide)
  | seed => exact (resultsLegal_complete hs).congr rfl
  | stream _ len hl hv => exact (resultsLegal_complete_putDout _ hs hv (lenAccepted_iff.mp hl).2).congr rfl

theorem resetHolds_of_rst_false {s : State} (h : s.rst = false) : ResetHolds s := by
  simp [ResetHolds, h]

@[simp] theorem writeStatus_rst (v : Word) (s : State) : (writeStatus v s).rst = s.rst := by
  rw [writeStatus_eq]

@[simp] theorem writeReg_rst (v : Word) (s : State) (r : Reg) : (writeReg v s r).rst = s.rst := by
  cases r <;> rfl

/-- The host has no hold on the reset input (R131). -/
@[simp] theorem hostWrite_rst (off : BitVec 7) (v : Word) (s : State) : (hostWrite off v s).rst = s.rst := by
  obtain ⟨-, h⟩ | ⟨-, -, h⟩ | ⟨-, -, -, h⟩ | ⟨-, -, -, h⟩ := hostWrite_cases off v s <;> simp [h]

/-- `ResetHolds` says nothing of the environment's fields. -/
theorem ResetHolds.environment {s : State} (hs : ResetHolds s) (wait draws : Nat) (script : List Event)
    (reads : List HostRead) :
    ResetHolds { s with wait := wait, draws := draws, script := script, reads := reads } := by
  intro hr
  rw [hs hr]

/-- While reset is asserted a host write has no effect, and no host write asserts reset (R132). -/
theorem resetHolds_hostWrite {s : State} (off : BitVec 7) (v : Word) (hs : ResetHolds s) :
    ResetHolds (hostWrite off v s) := by
  cases hr : s.rst with
  | true => simpa [hostWrite, hr] using hs
  | false => exact resetHolds_of_rst_false (by simp [hr])

/-- Every event keeps an asserted reset's hold on the state (R131, R132). -/
theorem resetHolds_takeEvent {e : Event} {s t : State} (hs : ResetHolds s) (h : takeEvent e s = .next t) :
    ResetHolds t := by
  obtain ⟨bytes, off, -, -, rfl⟩ | ⟨bytes, off, v, -, -, rfl⟩ | ⟨-, rfl⟩ | ⟨-, rfl⟩ | ⟨-, rfl⟩ | ⟨-, rfl⟩ :=
    takeEvent_next h
  · exact hs.environment _ _ _ _
  · exact (resetHolds_hostWrite off v hs).environment _ _ _ _
  · rw [pollOnce]; split <;> exact hs.environment _ _ _ _
  · exact hs.environment _ _ _ _
  · exact fun _ => rfl
  · exact resetHolds_of_rst_false rfl

theorem resultsLegal_takeEvent {e : Event} {s t : State} (hs : ResultsLegal s) (h : takeEvent e s = .next t) :
    ResultsLegal t := by
  obtain hkeep | ⟨-, hreset⟩ := results_takeEvent h
  · exact hs.congr hkeep
  · exact resultsLegal_reset.congr hreset

/-- Settles O51: a perform step happens only outside reset and leaves legal results; a wait moves only the
environment; an event keeps both halves of the invariant. -/
theorem stepKeepsTheInvariant : Obligations.StepKeepsTheInvariant := by
  intro s t hinv h
  obtain ⟨hlegal, hreset⟩ := machineInv_iff.mp hinv
  have htick : ResultsLegal (tick s) ∧ ResetHolds (tick s) :=
    ⟨hlegal.congr (results_tick s), hreset.environment _ _ _ _⟩
  refine machineInv_iff.mpr ?_
  obtain ⟨hd, h⟩ | ⟨-, -, rfl⟩ | ⟨-, e, es, -, h⟩ := step_next h
  · obtain ⟨-, -, -, -, hrst, -⟩ := noCommandChangesKeyDinOvr _ s t h
    exact ⟨resultsLegal_performed hlegal (exec_performed h),
      resetHolds_of_rst_false (hrst.trans (performDue_iff.mp hd).1)⟩
  · exact htick
  · exact ⟨resultsLegal_takeEvent htick.1 h, resetHolds_takeEvent htick.2 h⟩

end Sys2Proof.Machine

/-!
PROOFS. The register window and its bus accesses: what a read and a write of each offset do, byte lanes, host addresses,
malformed accesses, and which of its two forms a step takes (spec 20_memory.md).
-/

namespace Sys2Proof.Machine

/-! ### The two forms of a step (R9, R43, R45) -/

theorem step_of_performDue {s : State} (h : performDue s = true) : step s = exec (decodeWord s.pend) s :=
  if_pos h

theorem step_of_not_performDue {s : State} (h : performDue s = false) : step s = hostTurn (tick s) :=
  if_neg (by simp [h])

theorem performDue_eq_false_iff {s : State} :
    performDue s = false ↔ s.rst = true ∨ s.busy = false ∨ s.wait ≠ 0 := by
  rw [← Bool.not_eq_true, performDue_iff]
  simp only [not_and_or, Bool.not_eq_false, Bool.not_eq_true, ne_eq]

theorem performDue_withFetchWord (s : State) (nbits w : Nat) : performDue (s.withFetchWord nbits w) = true := rfl

theorem withFetchWord_pend (s : State) (w : Word) : (s.withFetchWord 32 w.toNat).pend = w := by
  simp [State.withFetchWord, Nat.mod_eq_of_lt w.isLt]

/-- Settles O7: `performDue` decides between the two forms, and it holds of every state `withFetchWord` makes. -/
theorem stepPerformsPendingCommand : Obligations.StepPerformsPendingCommand := by
  refine ⟨fun s hr hb hw => ?_, fun s h => ?_, fun s w => ?_⟩
  · exact step_of_performDue (performDue_iff.mpr ⟨hr, hb, hw⟩)
  · exact step_of_not_performDue (performDue_eq_false_iff.mpr h)
  · rw [step_of_performDue (performDue_withFetchWord s 32 w.toNat), withFetchWord_pend]

/-! ### The register of each offset (R15, R38) -/

theorem regAt_key (j : Fin 8) : regAt (BitVec.ofNat 7 (0x20 + 4 * j.val)) = .key j := by
  revert j; decide

theorem regAt_din (j : Fin 4) : regAt (BitVec.ofNat 7 (0x40 + 4 * j.val)) = .din j := by
  revert j; decide

theorem regAt_dout (j : Fin 4) : regAt (BitVec.ofNat 7 (0x50 + 4 * j.val)) = .dout j := by
  revert j; decide

theorem regAt_reserved {off : BitVec 7} (h : off = 0x18 ∨ off = 0x1C ∨ 0x60 ≤ off.toNat) :
    regAt off = .reserved := by
  revert off; decide

/-- An aligned offset of a register group that starts at a multiple of 4 is the group's offset of some index. -/
theorem exists_group_offset {off : BitVec 7} {start n : Nat} (ha : off.toNat % 4 = 0) (hs : start % 4 = 0)
    (lo : start ≤ off.toNat) (hi : off.toNat < start + 4 * n) :
    ∃ j : Fin n, off = BitVec.ofNat 7 (start + 4 * j.val) := by
  refine ⟨⟨(off.toNat - start) / 4, by omega⟩, BitVec.eq_of_toNat_eq ?_⟩
  have hoff : start + 4 * ((off.toNat - start) / 4) = off.toNat := by omega
  rw [hoff, BitVec.ofNat_toNat, BitVec.setWidth_eq]

/-! ### Reads (R39) -/

theorem busRead_of_regAt {off : BitVec 7} {r : Reg} (s : State) (h : regAt off = r) :
    busRead off s = readReg s r := congrArg (readReg s) h

/-- Settles O42: the register at each offset decides what the read returns. -/
theorem busReadTable : Obligations.BusReadTable := by
  intro s
  refine ⟨fun off ha hoff => ?_, rfl, rfl, rfl, rfl, rfl, fun j => busRead_of_regAt s (regAt_din j),
    fun j => busRead_of_regAt s (regAt_dout j)⟩
  obtain rfl | h18 | h1C | ⟨lo, hi⟩ | h60 := hoff
  · rfl
  · exact busRead_of_regAt s (regAt_reserved (.inl h18))
  · exact busRead_of_regAt s (regAt_reserved (.inr (.inl h1C)))
  · obtain ⟨j, rfl⟩ := exists_group_offset (n := 8) ha rfl lo hi
    exact busRead_of_regAt s (regAt_key j)
  · exact busRead_of_regAt s (regAt_reserved (.inr (.inr h60)))

/-! ### Writes while BUSY = 0 (R38, R39) -/

theorem busWrite_of_regAt {off : BitVec 7} {r : Reg} {s : State} (v : Word) (hb : s.busy = false)
    (h : regAt off = r) (hr : r ≠ .status) : busWrite off v s = writeReg v s r := by
  subst h
  simp [busWrite, hr, hb]

/-- Settles O43: outside STATUS, the register at each offset decides what the write does. -/
theorem busWriteWhileIdle : Obligations.BusWriteWhileIdle := by
  intro s v hb
  have write {off : BitVec 7} {r : Reg} (h : regAt off = r) (hr : r ≠ .status) :=
    busWrite_of_regAt v hb h hr
  refine ⟨write (r := .cmd) rfl nofun, write (r := .ctrLo) rfl nofun, write (r := .ctrHi) rfl nofun,
    write (r := .nonceLo) rfl nofun, write (r := .nonceHi) rfl nofun, fun j => write (regAt_key j) nofun,
    fun j => write (regAt_din j) nofun, fun off ha hoff => ?_⟩
  obtain h18 | h1C | h50 := hoff
  · exact write (regAt_reserved (.inl h18)) nofun
  · exact write (regAt_reserved (.inr (.inl h1C))) nofun
  · by_cases h60 : 0x60 ≤ off.toNat
    · exact write (regAt_reserved (.inr (.inr h60))) nofun
    · obtain ⟨j, rfl⟩ := exists_group_offset (n := 4) ha rfl h50 (by omega)
      exact write (regAt_dout j) nofun

/-! ### Byte lanes (R35) -/

theorem lanes_get (w : Word) {k : Nat} (hk : k < 4) : (lanes w).get k = w.extractLsb' (8 * k) 8 := by
  interval_cases k <;> rfl

theorem sword_bytes_getD (w : SWord) {k : Nat} (hk : k < 4) : w.bytes.getD k 0 = w.get k := by
  interval_cases k <;> rfl

theorem lanes_bytes_getD (w : Word) {k : Nat} (hk : k < 4) :
    (lanes w).bytes.getD k 0 = w.extractLsb' (8 * k) 8 := by
  rw [sword_bytes_getD _ hk, lanes_get w hk]

/-- Byte `k` of register `j` in the byte view of a list of registers. -/
theorem flatMap_lanes_getD (l : List Word) {j k : Nat} (hj : j < l.length) (hk : k < 4) :
    (l.flatMap fun w => (lanes w).bytes).getD (4 * j + k) 0 = l[j].extractLsb' (8 * k) 8 := by
  induction l generalizing j with
  | nil => cases hj
  | cons w ws ih =>
    rw [List.flatMap_cons]
    cases j with
    | zero =>
      rw [List.getD_append _ _ _ _ (by simpa using hk), Nat.mul_zero, Nat.zero_add]
      exact lanes_bytes_getD w hk
    | succ j =>
      rw [List.getD_append_right _ _ _ _ (by simp; omega), bytes_length,
        show 4 * (j + 1) + k - 4 = 4 * j + k by omega]
      exact ih (by simpa using hj)

theorem block_get_col (b : Block) (c : Nat) {k : Nat} (hk : k < 4) : b.get (4 * c + k) = (b.col c).get k := by
  rw [Block.get, Block.at, show (4 * c + k) % 4 = k by omega, show (4 * c + k) / 4 = c by omega]

theorem blockOfRegs_col (r : Vector Word 4) (j : Fin 4) : (blockOfRegs r).col j = lanes r[j] := by
  fin_cases j <;> rfl

/-- Byte `k` of register `j` in the block view of four registers. -/
theorem blockOfRegs_get (r : Vector Word 4) (j : Fin 4) {k : Nat} (hk : k < 4) :
    (blockOfRegs r).get (4 * j.val + k) = r[j].extractLsb' (8 * k) 8 := by
  rw [block_get_col _ _ hk, blockOfRegs_col, lanes_get _ hk]

theorem nonceB_getD_lo (s : State) {k : Nat} (hk : k < 4) :
    (nonceB s).getD k 0 = s.nonceLo.extractLsb' (8 * k) 8 := by
  rw [nonceB, List.getD_append _ _ _ _ (by simpa using hk), lanes_bytes_getD _ hk]

theorem nonceB_getD_hi (s : State) {k : Nat} (hk : k < 4) :
    (nonceB s).getD (4 + k) 0 = s.nonceHi.extractLsb' (8 * k) 8 := by
  rw [nonceB, List.getD_append_right _ _ _ _ (by simp), bytes_length, Nat.add_sub_cancel_left,
    lanes_bytes_getD _ hk]

theorem ctr_toNat (s : State) : (ctr s).toNat = s.ctrHi.toNat * 2 ^ 32 + s.ctrLo.toNat := by
  rw [ctr, BitVec.toNat_append, ← Nat.shiftLeft_add_eq_or_of_lt s.ctrLo.isLt, Nat.shiftLeft_eq]

/-- Settles O45: the lanes of one register, placed in each group by its byte view. -/
theorem byteLanes : Obligations.ByteLanes := by
  refine ⟨fun s j k hk => ?_, fun s j k hk => ?_, fun s k hk => ?_, ctr_toNat, fun s hkey => ?_⟩
  · exact flatMap_lanes_getD s.key.toList (by simp) hk
  · exact ⟨blockOfRegs_get s.din j hk, blockOfRegs_get s.dout j hk⟩
  · exact ⟨nonceB_getD_lo s hk, nonceB_getD_hi s hk⟩
  · rw [keyB, hkey]; decide

/-! ### Malformed accesses, and reads without a side effect (R37, R41, R126) -/

theorem accessOk_eq_false_iff {bytes : Nat} {off : BitVec 7} :
    accessOk bytes off = false ↔ bytes ≠ 4 ∨ off.toNat % 4 ≠ 0 := by
  simp [accessOk, imp_iff_not_or]

/-- With no perform step due, a step takes the next event, one interval later. -/
theorem step_of_script_cons {s : State} {e : Event} {es : List Event} (hd : performDue s = false)
    (hs : s.script = e :: es) : step s = takeEvent e (tick s) := by
  rw [step_of_not_performDue hd, hostTurn, tick_script, hs]

theorem takeEvent_read_malformed {bytes : Nat} {off : BitVec 7} (s : State) (h : accessOk bytes off = false) :
    takeEvent (.read bytes off) s = .fault (.busError off) := by
  simp [takeEvent, h]

theorem takeEvent_write_malformed {bytes : Nat} {off : BitVec 7} (v : Word) (s : State)
    (h : accessOk bytes off = false) : takeEvent (.write bytes off v) s = .fault (.busError off) := by
  simp [takeEvent, h]

theorem takeEvent_read {off : BitVec 7} (s : State) (h : off.toNat % 4 = 0) :
    takeEvent (.read 4 off) s = .next (dropEvent (logRead off (hostRead off s) s)) := by
  simp [takeEvent, accessOk, h]

/-- No register's value depends on the interval count. -/
@[simp] theorem readReg_tick (s : State) (r : Reg) : readReg (tick s) r = readReg s r := by
  cases r <;> rfl

@[simp] theorem hostRead_tick (off : BitVec 7) (s : State) : hostRead off (tick s) = hostRead off s := by
  simp [hostRead, busRead]

/-- Settles O46: the step takes the access, whose form decides between a bus error and a logged read. -/
theorem busErrorsAndReadsWithoutSideEffect : Obligations.BusErrorsAndReadsWithoutSideEffect := by
  intro s off es hd
  refine ⟨fun bytes hbad hs => ?_, fun bytes v hbad hs => ?_, fun ha hs => ?_⟩
  · rw [step_of_script_cons hd hs, takeEvent_read_malformed _ (accessOk_eq_false_iff.mpr hbad)]
  · rw [step_of_script_cons hd hs, takeEvent_write_malformed _ _ (accessOk_eq_false_iff.mpr hbad)]
  · rw [step_of_script_cons hd hs, takeEvent_read _ ha, hostRead_tick]
    simp [dropEvent, logRead, tick, hostRead, hs]

/-! ### Host addresses (R10, R34) -/

theorem base_mod_window : Config.base % 0x80 = 0 := Nat.mul_mod_right _ _

theorem offsetOf_addressOf (off : BitVec 7) : offsetOf (addressOf off) = some off := by
  have hlt : off.toNat < 0x80 := off.isLt
  simp [offsetOf, addressOf, hlt]

theorem offsetOf_eq_none_iff {addr : Nat} :
    offsetOf addr = none ↔ addr < Config.base ∨ Config.base + 0x80 ≤ addr := by
  simp only [offsetOf, ite_eq_right_iff, reduceCtorEq, imp_false, not_and_or, not_le, not_lt]

/-- Every address that selects an offset is that offset's address. -/
theorem eq_addressOf_of_offsetOf {addr : Nat} {off : BitVec 7} (h : offsetOf addr = some off) :
    addr = addressOf off := by
  have hin : Config.base ≤ addr ∧ addr < Config.base + 0x80 := by
    by_contra hout
    simp [offsetOf, hout] at h
  have hoff : BitVec.ofNat 7 (addr - Config.base) = off := by simpa [offsetOf, hin] using h
  have hmod : (addr - Config.base) % 2 ^ 7 = addr - Config.base := Nat.mod_eq_of_lt (by omega)
  rw [addressOf, ← hoff, BitVec.toNat_ofNat, hmod, Nat.add_sub_cancel' hin.1]

/-- Settles O47: `offsetOf` inverts `addressOf` on the window and is none outside it. -/
theorem windowAddresses : Obligations.WindowAddresses := by
  refine ⟨base_mod_window, offsetOf_addressOf, fun addr off => eq_addressOf_of_offsetOf,
    fun addr => offsetOf_eq_none_iff.mpr, fun off bytes v => ?_⟩
  simp only [memReadEvent, memWriteEvent, offsetOf_addressOf, Option.map_some, and_self]

end Sys2Proof.Machine

/-!
PROOFS. The command word: its fields as numbers, packing and unpacking, the round trips between words and commands, the
assembler's words, and what a word's fields mean to its perform step (spec 30_encoding.md).
-/

namespace Sys2Proof.Machine

/-! ### The fields of a word (R47 to R51) -/

theorem fieldOp_toNat (w : Word) : (fieldOp w).toNat = w.toNat % 16 := by
  simp [fieldOp]

theorem fieldLen_toNat (w : Word) : (fieldLen w).toNat = w.toNat / 16 % 32 := by
  simp [fieldLen, Nat.shiftRight_eq_div_pow]

theorem fieldRsvd_toNat (w : Word) : (fieldRsvd w).toNat = w.toNat / 512 % 128 := by
  simp [fieldRsvd, Nat.shiftRight_eq_div_pow]

theorem fieldBits_toNat (w : Word) : (fieldBits w).toNat = w.toNat / 65536 := by
  have hw : w.toNat / 65536 < 65536 := by omega
  simpa [fieldBits, Nat.shiftRight_eq_div_pow] using hw

/-! ### Packing the fields and reading them back (R47) -/

section
variable (op : BitVec 4) (len : BitVec 5) (rsvd : BitVec 7) (bits : BitVec 16)

open BitVec in
@[simp] theorem fieldLen_packFields : fieldLen (packFields op len rsvd bits) = len :=
  (extractLsb'_append_eq_of_le (w := 4) (by decide)).trans extractLsb'_append_eq_right

open BitVec in
@[simp] theorem fieldRsvd_packFields : fieldRsvd (packFields op len rsvd bits) = rsvd :=
  (extractLsb'_append_eq_of_le (w := 4) (by decide)).trans
    ((extractLsb'_append_eq_of_le (w := 5) (by decide)).trans extractLsb'_append_eq_right)

open BitVec in
@[simp] theorem fieldBits_packFields : fieldBits (packFields op len rsvd bits) = bits :=
  (extractLsb'_append_eq_of_le (w := 4) (by decide)).trans
    ((extractLsb'_append_eq_of_le (w := 5) (by decide)).trans extractLsb'_append_eq_left)

theorem decodeWord_packFields : decodeWord (packFields op len rsvd bits) = decodeFields op len rsvd bits := by
  rw [decodeWord, Laws.Opcode.fieldOp_packFields, fieldLen_packFields, fieldRsvd_packFields, fieldBits_packFields]

end

open BitVec in
theorem packFields_fields (w : Word) : packFields (fieldOp w) (fieldLen w) (fieldRsvd w) (fieldBits w) = w := by
  have h9 : fieldBits w ++ fieldRsvd w = w.extractLsb' 9 23 := extractLsb'_append_extractLsb'_eq_extractLsb' rfl
  have h4 : w.extractLsb' 9 23 ++ fieldLen w = w.extractLsb' 4 28 := extractLsb'_append_extractLsb'_eq_extractLsb' rfl
  have h0 : w.extractLsb' 4 28 ++ fieldOp w = w.extractLsb' 0 32 := extractLsb'_append_extractLsb'_eq_extractLsb' rfl
  calc packFields (fieldOp w) (fieldLen w) (fieldRsvd w) (fieldBits w)
      = fieldBits w ++ fieldRsvd w ++ fieldLen w ++ fieldOp w := rfl
    _ = w.extractLsb' 0 32 := by rw [h9]; exact (congrArg (· ++ fieldOp w) h4).trans h0
    _ = w := extractLsb'_eq_self

/-! ### The rows of the opcode map (R52, R53) -/

theorem wellFormed_reservedOp6to7_iff {op : BitVec 4} {len : BitVec 5} {rsvd : BitVec 7} {bits : BitVec 16} :
    WellFormed (.reservedOp6to7 op len rsvd bits) ↔ op = 0x6 ∨ op = 0x7 := by
  simp [WellFormed, wellFormed]

theorem wellFormed_reservedOp8to15_iff {op : BitVec 4} {len : BitVec 5} {rsvd : BitVec 7} {bits : BitVec 16} :
    WellFormed (.reservedOp8to15 op len rsvd bits) ↔ 8 ≤ op.toNat := by
  have bit3 : ∀ op : BitVec 4, op.getLsbD 3 = true ↔ 8 ≤ op.toNat := by decide
  exact bit3 op

/-- The opcode map as a chain of tests on OP. -/
theorem decodeFields_eq_ite (op : BitVec 4) (len : BitVec 5) (rsvd : BitVec 7) (bits : BitVec 16) :
    decodeFields op len rsvd bits =
      if op.toNat = 0 then .nop len rsvd bits
      else if op.toNat = 1 then .keyexp len rsvd bits
      else if op.toNat = 2 then .keyderive len rsvd bits
      else if op.toNat = 3 then .encblk len rsvd bits
      else if op.toNat = 4 then .ctrseed len rsvd bits
      else if op.toNat = 5 then .xorchunk len rsvd bits
      else if op.toNat < 8 then .reservedOp6to7 op len rsvd bits
      else .reservedOp8to15 op len rsvd bits := by
  unfold decodeFields
  generalize op.toNat = n
  match n with
  | 0 | 1 | 2 | 3 | 4 | 5 | 6 | 7 => rfl
  | n + 8 => simp

theorem decodeFields_of_eight_le {op : BitVec 4} (h : 8 ≤ op.toNat) (len : BitVec 5) (rsvd : BitVec 7)
    (bits : BitVec 16) : decodeFields op len rsvd bits = .reservedOp8to15 op len rsvd bits := by
  rw [decodeFields_eq_ite]
  repeat rw [if_neg (by omega)]

/-! ### The round trips (R47, R52, R55) -/

/-- Settles O3: the fields read back are those packed, and a command's OP leads to its own row. -/
theorem decodeEncodeRoundTrip : Obligations.DecodeEncodeRoundTrip := by
  intro i hi
  cases i with
  | nop | keyexp | keyderive | encblk | ctrseed | xorchunk => exact decodeWord_packFields ..
  | reservedOp6to7 op len rsvd bits =>
    obtain rfl | rfl := wellFormed_reservedOp6to7_iff.mp hi <;> exact decodeWord_packFields ..
  | reservedOp8to15 op len rsvd bits =>
    exact (decodeWord_packFields ..).trans
      (decodeFields_of_eight_le (wellFormed_reservedOp8to15_iff.mp hi) len rsvd bits)

/-- Settles O2: the fields by their bit places, the constructor by the opcode map on OP. -/
theorem decodeFollowsOpcodeMap : Obligations.DecodeFollowsOpcodeMap := by
  intro w
  refine ⟨fieldOp_toNat w, fieldLen_toNat w, fieldRsvd_toNat w, fieldBits_toNat w, ?_⟩
  rw [← fieldOp_toNat]
  exact decodeFields_eq_ite ..

/-- Every row of the opcode map keeps LEN, RSVD and BITS. -/
theorem encode_decodeWord (w : Word) :
    encode (decodeWord w) = packFields (opcode (decodeWord w)) (fieldLen w) (fieldRsvd w) (fieldBits w) := by
  unfold decodeWord decodeFields
  split <;> rfl

theorem wellFormed_decodeWord (w : Word) : WellFormed (decodeWord w) := by
  unfold decodeWord decodeFields
  split
  case h_7 h => exact wellFormed_reservedOp6to7_iff.mpr (.inl (BitVec.eq_of_toNat_eq h))
  case h_8 h => exact wellFormed_reservedOp6to7_iff.mpr (.inr (BitVec.eq_of_toNat_eq h))
  case h_9 => exact wellFormed_reservedOp8to15_iff.mpr (by simp only [imp_false] at *; omega)
  all_goals rfl

/-- Settles O4: the word's command keeps each of its fields, and the fields make up the word. -/
theorem encodeDecodeRoundTrip : Obligations.EncodeDecodeRoundTrip := by
  intro w
  refine ⟨wellFormed_decodeWord w, ?_⟩
  rw [encode_decodeWord, opcode_decodeWord, packFields_fields]

/-! ### The assembler's words (R56) -/

theorem packFields_eq_or (op : BitVec 4) (len : BitVec 5) (rsvd : BitVec 7) (bits : BitVec 16) :
    packFields op len rsvd bits =
      bits.setWidth 32 <<< 16 ||| rsvd.setWidth 32 <<< 9 ||| len.setWidth 32 <<< 4 ||| op.setWidth 32 := by
  rw [packFields, ← BitVec.setWidth_eq (bits ++ rsvd ++ len ++ op)]
  exact (BitVec.setWidth_append_append_append_eq_shiftLeft_setWidth_or ..).trans (by simp)

/-- Settles O5: a word is the OR of its fields in their places, and the assembler leaves the unused ones 0. -/
theorem assemblerWords : Obligations.AssemblerWords := by
  refine ⟨rfl, rfl, rfl, fun bits => ⟨?_, ?_, ?_, ?_⟩, fun len => ⟨?_, ?_⟩,
    rfl, rfl, rfl, rfl, rfl, rfl, rfl, rfl, rfl, rfl⟩
  · exact (packFields_eq_or 0x1 0 0 bits).trans (by simp)
  · exact (packFields_eq_or 0x2 0 0 bits).trans (by simp)
  · exact fieldRsvd_packFields ..
  · exact fieldRsvd_packFields ..
  · exact (packFields_eq_or 0x5 len 0 0).trans (by simp)
  · exact fieldRsvd_packFields ..

/-! ### The fields a command does not read (R51, R54) -/

/-- A perform step depends on LEN in the XORCHUNK row only, on BITS in the rows of the key commands only, and on RSVD
in none. -/
theorem exec_decodeFields_congr {op : BitVec 4} {len len' : BitVec 5} {bits bits' : BitVec 16}
    (rsvd rsvd' : BitVec 7) (s : State) (hlen : op.toNat = 5 → len = len')
    (hbits : op.toNat = 1 ∨ op.toNat = 2 → bits = bits') :
    exec (decodeFields op len rsvd bits) s = exec (decodeFields op len' rsvd' bits') s := by
  unfold decodeFields
  split
  case h_2 h => rw [hbits (.inl h)]; rfl
  case h_3 h => rw [hbits (.inr h)]; rfl
  case h_6 h => rw [hlen h]; rfl
  all_goals rfl

/-- Settles O6: the general clause is `exec_decodeFields_congr`, and the clause on RSVD is a case of it. -/
theorem ignoredFieldsHaveNoEffect : Obligations.IgnoredFieldsHaveNoEffect := by
  have congr (w w' : Word) (s : State) (hop : fieldOp w = fieldOp w')
      (hlen : (fieldOp w).toNat = 5 → fieldLen w = fieldLen w')
      (hbits : (fieldOp w).toNat = 1 ∨ (fieldOp w).toNat = 2 → fieldBits w = fieldBits w') :
      exec (decodeWord w) s = exec (decodeWord w') s := by
    rw [decodeWord, decodeWord, ← hop]
    exact exec_decodeFields_congr _ _ s hlen hbits
  exact ⟨fun w w' s hop hlen hbits => congr w w' s hop (fun _ => hlen) (fun _ => hbits), congr,
    fun s => ⟨rfl, rfl⟩⟩

/-! ### Acceptance and completion of every word (R16, R55) -/

theorem takeEvent_write {off : BitVec 7} (v : Word) (s : State) (h : off.toNat % 4 = 0) :
    takeEvent (.write 4 off v) s = .next (dropEvent (hostWrite off v s)) := by
  simp [takeEvent, accessOk, h]

theorem hostWrite_cmd (w : Word) {s : State} (hr : s.rst = false) (hb : s.busy = false) :
    hostWrite 0x00 w s = accept w s := by
  rw [hostWrite, if_neg (by simp [hr])]
  exact busWrite_of_regAt (r := .cmd) w hb rfl nofun

/-- No command faults or is refused, in any state. -/
theorem exec_total (i : Instr) (s : State) : ∃ t, exec i s = .next t := by
  cases i with
  | nop | ctrseed | reservedOp6to7 | reservedOp8to15 => exact ⟨_, rfl⟩
  | keyexp _ _ bits => simp only [exec, execKeyexp]; split <;> exact ⟨_, rfl⟩
  | keyderive _ _ bits => simp only [exec, execKeyderive]; split <;> exact ⟨_, rfl⟩
  | encblk => simp only [exec, execEncblk]; split <;> exact ⟨_, rfl⟩
  | xorchunk len =>
    simp only [exec, execXorchunk]
    split
    · split <;> exact ⟨_, rfl⟩
    · exact ⟨_, rfl⟩

/-- Settles O8: the write is an acceptance, and every command has a next state, with BUSY = 0 by O23. -/
theorem everyWordIsAcceptedAndPerformed : Obligations.EveryWordIsAcceptedAndPerformed := by
  intro w s hr hb
  constructor
  · rw [takeEvent_write w s rfl, hostWrite_cmd w hr hb]; rfl
  · intro u
    obtain ⟨t, ht⟩ := exec_total (decodeWord w) u
    obtain ⟨-, -, -, -, -, -, -, -, hbusy⟩ := noCommandChangesKeyDinOvr _ u t ht
    exact ⟨t, ht, hbusy⟩

/-! ### The reserved rows (R53, R119) -/

theorem exec_of_six_le_opcode {i : Instr} (h : 6 ≤ (opcode i).toNat) (s : State) :
    exec i s = .next (endError .errOp s) := by
  cases i with
  | nop | keyexp | keyderive | encblk | ctrseed | xorchunk => simp [opcode] at h
  | reservedOp6to7 | reservedOp8to15 => rfl

/-- Settles O13: a command whose OP is 6 or more is in a reserved row, and a word's command has the word's OP. -/
theorem reservedOpMeaning : Obligations.ReservedOpMeaning := by
  intro op len rsvd bits s
  refine ⟨rfl, rfl, fun w hw => exec_of_six_le_opcode ?_ s⟩
  rwa [opcode_decodeWord, fieldOp_toNat]

end Sys2Proof.Machine

/-!
PROOFS. The tables and the field: doubling and the round constants, the product of GF(2^8) and its laws, and the
substitution table as the affine map of the inverse (spec 40_tables.md).
-/

namespace Sys2Proof.Machine

/-! ### Doubling and the round constants (R59, R63) -/

/-- Reduction: what `xtime` XORs in is fixed by the byte's high bit (R59). -/
theorem xtime_eq_xor (b : Byte) : xtime b = b <<< 1 ^^^ (if b.getLsbD 7 then 0x1B#8 else 0#8) := by
  unfold xtime; split <;> simp

theorem getLsbD_seven_iff (b : Byte) : b.getLsbD 7 = true ↔ 128 ≤ b.toNat := by
  rw [← BitVec.msb_eq_getLsbD_last b, BitVec.msb_eq_decide, decide_eq_true_iff]

theorem xtime_toNat (b : Byte) :
    (xtime b).toNat = (b.toNat * 2 % 256) ^^^ (if 128 ≤ b.toNat then 0x1B else 0x00) := by
  rw [xtime_eq_xor, BitVec.toNat_xor, BitVec.toNat_shiftLeft, Nat.shiftLeft_eq, apply_ite BitVec.toNat]
  simp only [getLsbD_seven_iff]
  rfl

theorem rcon_succ_doubles {j : Nat} (h1 : 1 ≤ j) (h10 : j < 10) : (rcon (j + 1)).b0 = xtime (rcon j).b0 := by
  interval_cases j <;> rfl

theorem rcon_high_bytes (j : Nat) : (rcon j).b1 = 0 ∧ (rcon j).b2 = 0 ∧ (rcon j).b3 = 0 := by
  cases j <;> exact ⟨rfl, rfl, rfl⟩

/-- Settles O28: the examples and the first constant are evaluated. -/
theorem xtimeAndRoundConstants : Obligations.XtimeAndRoundConstants :=
  ⟨xtime_toNat, rfl, rfl, rfl, rfl, rfl, rfl, fun _ => rcon_succ_doubles, fun j _ _ => rcon_high_bytes j⟩

/-! ### The product of GF(2^8) (R60) -/

theorem xtime_xor (a b : Byte) : xtime (a ^^^ b) = xtime a ^^^ xtime b := by
  have hbit : (if (a ^^^ b).getLsbD 7 then 0x1B#8 else 0#8) =
      (if a.getLsbD 7 then 0x1B#8 else 0#8) ^^^ (if b.getLsbD 7 then 0x1B#8 else 0#8) := by
    rw [BitVec.getLsbD_xor]
    cases a.getLsbD 7 <;> cases b.getLsbD 7 <;> rfl
  rw [xtime_eq_xor, xtime_eq_xor, xtime_eq_xor, hbit, BitVec.shiftLeft_xor_distrib]
  ac_rfl

/-- What one round of the product's loop adds to the sum: the factor `a` if bit 0 of `b` is set (R60). -/
def gmulTerm (a b : Byte) : Byte := if b.getLsbD 0 then a else 0

section
variable (n : Nat) (r s a b c : Byte)

theorem gmulTerm_xor_left : gmulTerm (a ^^^ b) c = gmulTerm a c ^^^ gmulTerm b c := by
  unfold gmulTerm; split <;> rfl

theorem gmulTerm_xor_right : gmulTerm a (b ^^^ c) = gmulTerm a b ^^^ gmulTerm a c := by
  unfold gmulTerm
  rw [BitVec.getLsbD_xor]
  cases b.getLsbD 0 <;> cases c.getLsbD 0 <;> simp

theorem gmulTerm_xtime : gmulTerm (xtime a) b = xtime (gmulTerm a b) := by
  unfold gmulTerm; split <;> rfl

theorem gmulLoop_succ : gmulLoop (n + 1) r a b = gmulLoop n (r ^^^ gmulTerm a b) (xtime a) (b >>> 1) := by
  rw [gmulLoop, gmulTerm]; split <;> simp

theorem gmulLoop_xor_left : gmulLoop n (r ^^^ s) (a ^^^ b) c = gmulLoop n r a c ^^^ gmulLoop n s b c := by
  induction n generalizing r s a b c with
  | zero => rfl
  | succ n ih =>
    simp only [gmulLoop_succ, gmulTerm_xor_left, xtime_xor, ← ih]
    congr 1; ac_rfl

theorem gmulLoop_xor_right : gmulLoop n (r ^^^ s) a (b ^^^ c) = gmulLoop n r a b ^^^ gmulLoop n s a c := by
  induction n generalizing r s a b c with
  | zero => rfl
  | succ n ih =>
    simp only [gmulLoop_succ, gmulTerm_xor_right, BitVec.ushiftRight_xor_distrib, ← ih]
    congr 1; ac_rfl

theorem gmulLoop_xtime_left : gmulLoop n (xtime r) (xtime a) b = xtime (gmulLoop n r a b) := by
  induction n generalizing r a b with
  | zero => rfl
  | succ n ih => rw [gmulLoop_succ, gmulLoop_succ, gmulTerm_xtime, ← xtime_xor, ih]

theorem gmul_xor_left : gmul (a ^^^ b) c = gmul a c ^^^ gmul b c := gmulLoop_xor_left 8 0 0 a b c

theorem gmul_xor_right : gmul a (b ^^^ c) = gmul a b ^^^ gmul a c := gmulLoop_xor_right 8 0 0 a b c

theorem gmul_xtime_left : gmul (xtime a) b = xtime (gmul a b) := gmulLoop_xtime_left 8 0 a b

/-- With 0x01 as its factor the loop doubles 0x01 through the powers of x, and so puts `a` together bit by bit. -/
theorem one_gmul : gmul 0x01 a = a := by
  revert a; decide

theorem gmul_one : gmul a 0x01 = a := by
  simp [gmul, gmulLoop]

theorem gmul_zero : gmul a 0 = 0 := by
  simp [gmul, gmulLoop]

end

/-- The loop only adds and doubles: what XOR and `xtime` keep holds of its result. -/
theorem gmulLoop_induction {P : Byte → Prop} (hxor : ∀ x y, P x → P y → P (x ^^^ y))
    (hxtime : ∀ x, P x → P (xtime x)) {n : Nat} {r a : Byte} (b : Byte) (hr : P r) (ha : P a) :
    P (gmulLoop n r a b) := by
  induction n generalizing r a b with
  | zero => exact hr
  | succ n ih =>
    refine ih _ ?_ (hxtime a ha)
    split
    · exact hxor r a hr ha
    · exact hr

/-- Every byte is a sum of doublings of 0x01: it is the loop's result for 0x01 • b. -/
theorem byte_induction {P : Byte → Prop} (hone : P 0x01) (hxor : ∀ x y, P x → P y → P (x ^^^ y))
    (hxtime : ∀ x, P x → P (xtime x)) (b : Byte) : P b := by
  have hzero : P 0 := hxor 0x01 0x01 hone hone
  rw [← one_gmul b]
  exact gmulLoop_induction hxor hxtime b hzero hone

theorem gmul_xtime_right (a b : Byte) : gmul a (xtime b) = xtime (gmul a b) := by
  induction a using byte_induction with
  | hone => rw [one_gmul, one_gmul]
  | hxor x y hx hy => rw [gmul_xor_left, gmul_xor_left, xtime_xor, hx, hy]
  | hxtime x hx => rw [gmul_xtime_left, gmul_xtime_left, hx]

theorem gmul_comm (a b : Byte) : gmul a b = gmul b a := by
  induction a using byte_induction with
  | hone => rw [one_gmul, gmul_one]
  | hxor x y hx hy => rw [gmul_xor_left, gmul_xor_right, hx, hy]
  | hxtime x hx => rw [gmul_xtime_left, gmul_xtime_right, hx]

theorem gmul_assoc (a b c : Byte) : gmul (gmul a b) c = gmul a (gmul b c) := by
  induction a using byte_induction with
  | hone => rw [one_gmul, one_gmul]
  | hxor x y hx hy => rw [gmul_xor_left, gmul_xor_left, gmul_xor_left, hx, hy]
  | hxtime x hx => rw [gmul_xtime_left, gmul_xtime_left, gmul_xtime_left, hx]

theorem two_gmul (a : Byte) : gmul 0x02 a = xtime a :=
  calc gmul (xtime 0x01) a = xtime (gmul 0x01 a) := gmul_xtime_left 0x01 a
    _ = xtime a := by rw [one_gmul]

theorem three_gmul (a : Byte) : gmul 0x03 a = xtime a ^^^ a :=
  calc gmul (0x02 ^^^ 0x01) a = gmul 0x02 a ^^^ gmul 0x01 a := gmul_xor_left 0x02 0x01 a
    _ = xtime a ^^^ a := by rw [two_gmul, one_gmul]

/-- Settles O29: each law is an induction over one factor as a sum of doublings; the examples are evaluated. -/
theorem gmulIsFieldMultiplication : Obligations.GmulIsFieldMultiplication :=
  ⟨fun a b c => ⟨gmul_xor_right a b c, gmul_xor_left a b c⟩, fun a b => ⟨gmul_xtime_right a b, gmul_comm a b⟩,
    fun a => ⟨one_gmul a, two_gmul a, three_gmul a⟩, rfl, rfl⟩

/-- A byte has at most one inverse (R66). -/
theorem gmul_inverse_unique {x y z : Byte} (hy : gmul x y = 0x01) (hz : gmul x z = 0x01) : z = y :=
  calc z = gmul (gmul x y) z := by rw [hy, one_gmul]
    _ = gmul y (gmul x z) := by rw [gmul_comm x y, gmul_assoc]
    _ = y := by rw [hz, gmul_one]

/-! ### The substitution table (R62, R66) -/

/-- The inverse of the affine map A, which the spec does not name: it takes a table entry back to the inverse in
GF(2^8) that R66 computes it from. -/
def sboxAffineInv (z : Byte) : Byte := z.rotateLeft 1 ^^^ z.rotateLeft 3 ^^^ z.rotateLeft 6 ^^^ 0x05#8

theorem sboxAffine_sboxAffineInv (z : Byte) : sboxAffine (sboxAffineInv z) = z := by
  revert z; decide

/-- The table's entry for a byte other than 0 holds the byte's inverse, under A (R66). -/
theorem gmul_sboxAffineInv_sbox {x : Byte} (hx : x ≠ 0) : gmul x (sboxAffineInv (sbox x)) = 0x01 := by
  revert x; decide

theorem rotateRight_getLsbD (y : Byte) {r k : Nat} (hr : r < 8) (hk : k < 8) :
    (y.rotateRight r).getLsbD k = y.getLsbD ((k + r) % 8) := by
  rw [BitVec.getLsbD_rotateRight, Nat.mod_eq_of_lt hr]
  by_cases h : k < 8 - r
  · rw [decide_eq_true h, cond_true, Nat.mod_eq_of_lt (by omega), Nat.add_comm]
  · rw [decide_eq_false h, cond_false, decide_eq_true hk, Bool.true_and]
    congr 1; omega

/-- The map A bit by bit, as R66 writes it. -/
theorem sboxAffine_getLsbD (y : Byte) {k : Nat} (hk : k < 8) : (sboxAffine y).getLsbD k =
    (y.getLsbD k ^^ y.getLsbD ((k + 4) % 8) ^^ y.getLsbD ((k + 5) % 8) ^^ y.getLsbD ((k + 6) % 8) ^^
      y.getLsbD ((k + 7) % 8) ^^ (0x63#8).getLsbD k) := by
  simp only [sboxAffine, BitVec.getLsbD_xor, rotateRight_getLsbD, hk, Nat.reduceLT]

/-- Settles O30: A undone on the table's entry is the inverse, and no other byte is one. -/
theorem sboxIsAffineOfInverse : Obligations.SboxIsAffineOfInverse := by
  refine ⟨rfl, fun x hx => ?_, fun y k hk => sboxAffine_getLsbD y hk⟩
  have hinv : gmul x (sboxAffineInv (sbox x)) = 0x01 := gmul_sboxAffineInv_sbox hx
  exact ⟨sboxAffineInv (sbox x), hinv, fun z hz => gmul_inverse_unique hinv hz,
    (sboxAffine_sboxAffineInv (sbox x)).symm⟩

/-- The entry of 0 holds 0, which is no byte's inverse. -/
theorem eq_zero_of_sbox_eq_sbox_zero {x : Byte} (h : sbox x = sbox 0) : x = 0 := by
  by_contra hx
  have hentry : sboxAffineInv (sbox x) = 0 := by rw [h]; rfl
  have hinv : gmul x (sboxAffineInv (sbox x)) = 0x01 := gmul_sboxAffineInv_sbox hx
  rw [hentry, gmul_zero] at hinv
  exact absurd hinv (by decide)

/-- Equal entries hold equal inverses, and a byte is fixed by its inverse. -/
theorem sbox_injective : Function.Injective sbox := by
  intro x y h
  by_cases hx : x = 0
  · subst hx; exact (eq_zero_of_sbox_eq_sbox_zero h.symm).symm
  by_cases hy : y = 0
  · subst hy; exact eq_zero_of_sbox_eq_sbox_zero h
  have hxinv : gmul (sboxAffineInv (sbox y)) x = 0x01 := by rw [gmul_comm, ← h, gmul_sboxAffineInv_sbox hx]
  have hyinv : gmul (sboxAffineInv (sbox y)) y = 0x01 := by rw [gmul_comm, gmul_sboxAffineInv_sbox hy]
  exact gmul_inverse_unique hyinv hxinv

theorem sbox_ne_self (x : Byte) : sbox x ≠ x := by
  revert x; decide

/-- Settles O31: the bytes are finitely many, so the table reaches each of them because it is injective. -/
theorem sboxIsPermutation : Obligations.SboxIsPermutation :=
  ⟨fun _ _ h => sbox_injective h, Finite.surjective_of_injective sbox_injective, sbox_ne_self⟩

end Sys2Proof.Machine

/-!
PROOFS. The key schedule: KeyExpansion's words and their recurrence, its vectors, and the schedule that a key command
leaves in SCHED (spec 41_key_schedule.md).
-/

namespace Sys2Proof.Machine

/-! ### The words of KeyExpansion (R67 to R70) -/

/-- The loop only appends: a word once written is never written again (R67). -/
theorem foldl_scheduleStep_getD (nk : Nat) (l : List Nat) {w : List SWord} {i : Nat} (hi : i < w.length) :
    (l.foldl (scheduleStep nk) w).getD i default = w.getD i default := by
  induction l generalizing w with
  | nil => rfl
  | cons k l ih =>
    rw [List.foldl_cons, ih (by simp [scheduleStep]; omega)]
    exact List.getD_append _ _ _ _ hi

/-- An iteration appends the XOR of R67, whose two operands were written before it. -/
theorem foldl_scheduleStep_cons_getD {nk : Nat} (l : List Nat) {w : List SWord} (hpos : 0 < nk) (hw : nk ≤ w.length) :
    ((w.length :: l).foldl (scheduleStep nk) w).getD w.length default =
      (((w.length :: l).foldl (scheduleStep nk) w).getD (w.length - nk) default).xor
        (scheduleTemp nk w.length (((w.length :: l).foldl (scheduleStep nk) w).getD (w.length - 1) default)) := by
  rw [foldl_scheduleStep_getD nk (w.length :: l) (i := w.length - nk) (by omega),
    foldl_scheduleStep_getD nk (w.length :: l) (i := w.length - 1) (by omega), List.foldl_cons,
    foldl_scheduleStep_getD nk l (by simp [scheduleStep])]
  simp [scheduleStep]

/-- Every word that the loop appends to `nk` first words obeys the recurrence (R67): the loop is cut at iteration
`i`, which finds `i` words. -/
theorem foldl_range'_scheduleStep_getD {nk m i : Nat} {w : List SWord} (hpos : 0 < nk) (hw : w.length = nk)
    (hlo : nk ≤ i) (hhi : i < nk + m) :
    ((List.range' nk m).foldl (scheduleStep nk) w).getD i default =
      (((List.range' nk m).foldl (scheduleStep nk) w).getD (i - nk) default).xor
        (scheduleTemp nk i (((List.range' nk m).foldl (scheduleStep nk) w).getD (i - 1) default)) := by
  obtain ⟨a, rfl⟩ := Nat.exists_eq_add_of_le hlo
  obtain ⟨b, rfl⟩ : ∃ b, m = a + (b + 1) := ⟨m - a - 1, by omega⟩
  have hlen : ((List.range' nk a).foldl (scheduleStep nk) w).length = nk + a := by
    rw [foldl_scheduleStep_length, hw, List.length_range']
  rw [← List.range'_append_1, List.foldl_append, List.range'_succ, ← hlen]
  exact foldl_scheduleStep_cons_getD _ hpos (by omega)

theorem keyWords_length (key : List Byte) (nk : Nat) : (keyWords key nk).length = nk := by
  simp [keyWords]

theorem ofBytesAt_get (l : List Byte) (i : Nat) {j : Nat} (hj : j < 4) :
    (SWord.ofBytesAt l i).get j = l.getD (4 * i + j) 0 := by
  interval_cases j <;> rfl

section
variable {key : List Byte} {nk i : Nat} (hkey : key.length = 4 * nk)
include hkey

theorem keyExpansion_eq_foldl :
    (keyExpansion key).1 =
      (List.range' nk (4 * (nk + 7) - nk)).foldl (scheduleStep nk) (keyWords key nk) := by
  simp [keyExpansion, hkey]

/-- The first Nk words are the key (R67, R68). -/
theorem keyExpansion_getD_of_lt (hi : i < nk) : (keyExpansion key).1.getD i default = SWord.ofBytesAt key i := by
  rw [keyExpansion_eq_foldl hkey, foldl_scheduleStep_getD _ _ (by rwa [keyWords_length])]
  simp [keyWords, hi]

/-- The recurrence of the later words (R67). -/
theorem keyExpansion_getD_of_le (hpos : 0 < nk) (hlo : nk ≤ i) (hhi : i < 4 * (nk + 7)) :
    (keyExpansion key).1.getD i default =
      ((keyExpansion key).1.getD (i - nk) default).xor
        (scheduleTemp nk i ((keyExpansion key).1.getD (i - 1) default)) := by
  rw [keyExpansion_eq_foldl hkey]
  exact foldl_range'_scheduleStep_getD hpos (keyWords_length key nk) hlo (by omega)

end

/-- For the three values of Nk, "Nk > 6" in the third case of R69 says Nk = 8. -/
theorem scheduleTemp_eq {nk : Nat} (hnk : nk = 4 ∨ nk = 6 ∨ nk = 8) (i : Nat) (prev : SWord) :
    scheduleTemp nk i prev =
      if i % nk = 0 then (subWord (rotWord prev)).xor (rcon (i / nk))
      else if nk = 8 ∧ i % nk = 4 then subWord prev
      else prev := by
  have h : 6 < nk ↔ nk = 8 := by omega
  simp only [scheduleTemp, h]

/-- R67's loop reads only the round constants that R63 defines. -/
theorem rcon_index_bounds {nk i : Nat} (hnk : nk = 4 ∨ nk = 6 ∨ nk = 8) (hlo : nk ≤ i) (hhi : i < 4 * (nk + 7)) :
    1 ≤ i / nk ∧ i / nk ≤ 10 := by
  obtain rfl | rfl | rfl := hnk <;> omega

/-- Settles O32: the first words are those the loop starts from, the others those it appends. -/
theorem keyExpansionRecurrence : Obligations.KeyExpansionRecurrence := by
  intro key nk hnk hkey
  have hrounds : (keyExpansion key).2 = nk + 6 := by rw [keyExpansion_rounds]; omega
  refine ⟨hrounds, ?_, ?_, ?_, ?_⟩
  · rw [keyExpansion_length, hrounds]
  · intro i j hi hj
    rw [keyExpansion_getD_of_lt hkey hi, ofBytesAt_get key i hj]
  · intro i hlo hhi
    rw [← scheduleTemp_eq hnk]
    exact keyExpansion_getD_of_le hkey (by omega) hlo hhi
  · intro i hlo hhi _
    obtain ⟨h1, h10⟩ := rcon_index_bounds hnk hlo hhi
    exact ⟨h1, h10, rcon_high_bytes (i / nk)⟩

/-! ### The vectors (R73, R84, R90) -/

/-- The conformance vector: the zero block under the zero key (R84). -/
theorem cipher_zero_key :
    cipher (Block.ofBytes (List.replicate 16 0)) (keyExpansion (List.replicate 16 0)).1
        (keyExpansion (List.replicate 16 0)).2 =
      Block.ofBytes [0x66, 0xe9, 0x4b, 0xd4, 0xef, 0x8a, 0x2c, 0x3b, 0x88, 0x4c, 0xfa, 0x59, 0xca, 0x34, 0x2b,
        0x2e] := by
  decide +kernel

/-- Of a 16-byte key the derived key is one cipher block, the key under itself (R85). -/
theorem deriveKey_of_length_16 {raw : List Byte} (h : raw.length = 16) :
    deriveKey raw = (cipher (Block.ofBytes raw) (keyExpansion raw).1 (keyExpansion raw).2).bytes := by
  have htake : raw.take 16 = raw := List.take_of_length_le h.le
  simp [deriveKey, derived16, h, htake]

/-- Settles O37: each number is evaluated, but that the zero key of 16 bytes derives the conformance vector. -/
theorem vectorsOfTheRules : Obligations.VectorsOfTheRules := by
  refine ⟨?_, ?_, ?_, ?_, cipher_zero_key, ?_, ?_, ?_⟩
  case refine_5 =>
    rw [deriveKey_of_length_16 rfl, cipher_zero_key]
    rfl
  all_goals decide +kernel

/-! ### The schedule that a key command leaves (R29, R72, R89) -/

theorem keyLength_ofNat {n : Nat} (hn : n = 16 ∨ n = 24 ∨ n = 32) :
    keyLength (BitVec.ofNat 16 (8 * n)) = some n := by
  obtain rfl | rfl | rfl := hn <;> rfl

/-- A stored schedule replaces the words below its length and keeps those above (R29, R72). -/
theorem storeSchedule_getD (w : List SWord) (old : Vector SWord 60) {i : Nat} (hi : i < 60) :
    (storeSchedule w old).toList.getD i default =
      if i < w.length then w.getD i default else old.toList.getD i default := by
  simpa [hi] using storeSchedule_get w old i hi

/-- What loading the expansion of a key of N bytes and completing does to the state (R72, R89). -/
theorem complete_loadSchedule_keyExpansion {raw : List Byte} {n : Nat} (s : State)
    (hn : n = 16 ∨ n = 24 ∨ n = 32) (hraw : raw.length = n) :
    (∀ i, i < 4 * (n / 4 + 7) →
      (complete (loadSchedule (keyExpansion raw) s)).sched.toList.getD i default =
        (keyExpansion raw).1.getD i default) ∧
    (∀ i, 4 * (n / 4 + 7) ≤ i → i < 60 →
      (complete (loadSchedule (keyExpansion raw) s)).sched.toList.getD i default = s.sched.toList.getD i default) ∧
    (complete (loadSchedule (keyExpansion raw) s)).nri.toNat = n / 4 + 6 := by
  have hlen : (keyExpansion raw).1.length = 4 * (n / 4 + 7) := by
    rw [keyExpansion_length, keyExpansion_rounds, hraw]
  refine ⟨fun i hi => ?_, fun i hlo hhi => ?_, ?_⟩
  · rw [complete_sched, loadSchedule_sched, storeSchedule_getD _ _ (by omega), if_pos (by omega)]
  · rw [complete_sched, loadSchedule_sched, storeSchedule_getD _ _ hhi, if_neg (by omega)]
  · rw [complete_nri, loadSchedule_keyExpansion_nri s (hraw ▸ hn), hraw]

/-- Settles O14: KEYEXP loads the expansion of KEYB[0..N) and completes. -/
theorem keyexpLoadsRawSchedule : Obligations.KeyexpLoadsRawSchedule := by
  intro n len rsvd s hn
  have hexec : exec (.keyexp len rsvd (BitVec.ofNat 16 (8 * n))) s =
      .next (complete (loadSchedule (keyExpansion (rawKey n s)) s)) := by
    simp only [exec, execKeyexp, keyLength_ofNat hn]
  obtain ⟨hbelow, habove, hnri⟩ := complete_loadSchedule_keyExpansion s hn (rawKey_length n s (by omega))
  exact ⟨_, hexec, hbelow, habove, hnri, rfl⟩

end Sys2Proof.Machine

/-!
PROOFS. The block transform: the transforms of the State byte by byte, Cipher as its sequence of rounds, the schedule
words that Cipher reads, and what ENCBLK and XORCHUNK make of it (spec 42_block_transform.md).
-/

namespace Sys2Proof.Machine

/-! ### The layout of the State (R75) -/

theorem block_at_eq_get (b : Block) (c : Nat) {r : Nat} (hr : r < 4) : b.at r c = b.get (4 * c + r) :=
  (block_get_col b c hr).symm

theorem block_ofFn_at (f : Nat → Byte) {r c : Nat} (hr : r < 4) (hc : c < 4) :
    (Block.ofFn f).at r c = f (4 * c + r) := by
  rw [block_at_eq_get _ _ hr, block_ofFn_get _ _ (by omega)]

theorem block_ofMatrix_at (f : Nat → Nat → Byte) {r c : Nat} (hr : r < 4) (hc : c < 4) :
    (Block.ofMatrix f).at r c = f r c := by
  rw [Block.ofMatrix, block_ofFn_at _ hr hc, show (4 * c + r) % 4 = r by omega, show (4 * c + r) / 4 = c by omega]

/-! ### The transforms on a column, and the bytes of a column (R76, R77, R79) -/

section
variable {r c : Nat} (hr : r < 4) (hc : c < 4)

include hc in
theorem addRoundKey_col (s k : Block) : (addRoundKey s k).col c = (s.col c).xor (k.col c) := by
  interval_cases c <;> rfl

include hc in
theorem subBytes_col (s : Block) : (subBytes s).col c = subWord (s.col c) := by
  interval_cases c <;> rfl

include hc in
theorem mixColumns_col (s : Block) : (mixColumns s).col c = mixColumn (s.col c) := by
  interval_cases c <;> rfl

include hc in
theorem roundKey_col (w : List SWord) (k : Nat) : (roundKey w k).col c = w.getD (4 * k + c) default := by
  interval_cases c <;> rfl

include hr in
theorem sword_xor_get (v w : SWord) : (v.xor w).get r = v.get r ^^^ w.get r := by
  interval_cases r <;> rfl

include hr in
theorem subWord_get (w : SWord) : (subWord w).get r = sbox (w.get r) := by
  interval_cases r <;> rfl

include hr in
/-- Row `r` of the matrix of R79 is row 0 rotated right by `r`. -/
theorem mixColumn_get (a : SWord) :
    (mixColumn a).get r =
      gmul 0x02 (a.get r) ^^^ gmul 0x03 (a.get ((r + 1) % 4)) ^^^ a.get ((r + 2) % 4) ^^^ a.get ((r + 3) % 4) := by
  rw [two_gmul, three_gmul]
  interval_cases r <;> simp only [mixColumn, SWord.get] <;> ac_rfl

end

/-- Settles O33: three of the transforms work on each column by itself, ShiftRows and the flat block are the layout. -/
theorem roundTransformsByteByByte : Obligations.RoundTransformsByteByByte := by
  intro s w l k r c hr hc
  refine ⟨?_, ?_, ?_, ?_, ?_, ?_⟩
  · rw [Block.at, addRoundKey_col hc, roundKey_col hc, sword_xor_get hr, Block.at]
  · rw [Block.at, subBytes_col hc, subWord_get hr, Block.at]
  · exact block_ofMatrix_at _ hr hc
  · rw [Block.at, mixColumns_col hc, mixColumn_get hr]; rfl
  · exact block_ofFn_at _ hr hc
  · rw [block_bytes_getD _ _ (by omega), block_at_eq_get _ _ hr]

/-! ### The rounds of Cipher (R74, R80) -/

/-- The State after the initial AddRoundKey and the first `k` full rounds. -/
def roundState (input : Block) (w : List SWord) (k : Nat) : Block :=
  (List.range' 1 k).foldl (middleRound w) (addRoundKey input (roundKey w 0))

theorem roundState_zero (input : Block) (w : List SWord) :
    roundState input w 0 = addRoundKey input (roundKey w 0) := rfl

theorem roundState_succ (input : Block) (w : List SWord) (k : Nat) :
    roundState input w (k + 1) = middleRound w (roundState input w k) (k + 1) := by
  simp [roundState, List.range'_concat, Nat.add_comm]

theorem cipher_eq_finalRound (input : Block) (w : List SWord) (nr : Nat) :
    cipher input w nr = finalRound w (roundState input w (nr - 1)) nr := rfl

/-- Settles O34: the sequence is `roundState`, whose recurrence is one full round. -/
theorem cipherRunsItsRounds : Obligations.CipherRunsItsRounds := by
  intro input w nr
  refine ⟨roundState input w, roundState_zero input w, fun round hlo _ => ?_, cipher_eq_finalRound input w nr⟩
  obtain ⟨k, rfl⟩ := Nat.exists_eq_add_of_le' hlo
  exact roundState_succ input w k

/-! ### The schedule words that Cipher reads (R29, R83) -/

section
variable {w w' : List SWord} {nr : Nat} (h : ∀ i, i < 4 * (nr + 1) → w.getD i default = w'.getD i default)
include h

theorem roundKey_congr {k : Nat} (hk : k ≤ nr) : roundKey w k = roundKey w' k := by
  rw [roundKey, roundKey, h (4 * k) (by omega), h (4 * k + 1) (by omega), h (4 * k + 2) (by omega),
    h (4 * k + 3) (by omega)]

theorem roundState_congr (input : Block) {k : Nat} (hk : k ≤ nr) : roundState input w k = roundState input w' k := by
  induction k with
  | zero => rw [roundState_zero, roundState_zero, roundKey_congr h hk]
  | succ k ih =>
    rw [roundState_succ, roundState_succ, ih (by omega), middleRound, middleRound, roundKey_congr h hk]

theorem cipher_congr (input : Block) : cipher input w nr = cipher input w' nr := by
  rw [cipher_eq_finalRound, cipher_eq_finalRound, roundState_congr h input (Nat.sub_le nr 1), finalRound, finalRound,
    roundKey_congr h le_rfl]

end

/-! ### ENCBLK and XORCHUNK, case by case (R82, R95, R121, R122) -/

theorem execEncblk_of_keyValid {s : State} (hv : s.keyValid = true) :
    execEncblk s = .next (complete (putDout (cipher (dinB s) s.sched.toList s.nri.toNat) 16 s)) :=
  if_pos hv

theorem execEncblk_of_no_key {s : State} (hv : s.keyValid = false) :
    execEncblk s = .next (endError .errNoKey s) :=
  if_neg (by simp [hv])

theorem execXorchunk_of_keyValid {len : BitVec 5} {s : State} (hl : lenAccepted len = true) (hv : s.keyValid = true) :
    execXorchunk len s = .next (complete (setCtr (ctr s + 1) (putDout
      (xorBlock (dinB s) (keystream (nonceB s) (ctr s) s.sched.toList s.nri.toNat) len.toNat) len s))) := by
  rw [execXorchunk, if_pos hl, if_pos hv]

theorem execXorchunk_of_no_key {len : BitVec 5} {s : State} (hl : lenAccepted len = true) (hv : s.keyValid = false) :
    execXorchunk len s = .next (endError .errNoKey s) := by
  rw [execXorchunk, if_pos hl, if_neg (by simp [hv])]

theorem execXorchunk_of_len_rejected {len : BitVec 5} (s : State) (hl : lenAccepted len = false) :
    execXorchunk len s = .next (endError .errLen s) :=
  if_neg (by simp [hl])

/-- Settles O17: KEYVALID decides which of the two ways ENCBLK ends. -/
theorem encblkMeaning : Obligations.EncblkMeaning := by
  intro len rsvd bits s
  refine ⟨fun hv => ⟨_, execEncblk_of_keyValid hv, fun i _ => ?_, rfl⟩, fun hv => execEncblk_of_no_key hv⟩
  rw [doutB_complete, doutB_putDout]

/-! ### Stale schedule words (R29, R83) -/

section
variable {s : State} {v : Vector SWord 60}
  (h : ∀ b, cipher b v.toList s.nri.toNat = cipher b s.sched.toList s.nri.toNat)
include h

/-- A schedule that gives the same cipher makes no difference to ENCBLK, and stands unchanged after it. -/
theorem execEncblk_withSched :
    ∃ t, execEncblk s = .next t ∧ execEncblk { s with sched := v } = .next { t with sched := v } := by
  obtain hv | hv := Bool.eq_false_or_eq_true s.keyValid
  · refine ⟨_, execEncblk_of_keyValid hv, ?_⟩
    rw [execEncblk_of_keyValid (s := { s with sched := v }) hv, h]; rfl
  · exact ⟨_, execEncblk_of_no_key hv, execEncblk_of_no_key hv⟩

/-- A schedule that gives the same cipher makes no difference to XORCHUNK, and stands unchanged after it. -/
theorem execXorchunk_withSched (len : BitVec 5) :
    ∃ t, execXorchunk len s = .next t ∧ execXorchunk len { s with sched := v } = .next { t with sched := v } := by
  obtain hl | hl := Bool.eq_false_or_eq_true (lenAccepted len)
  · obtain hv | hv := Bool.eq_false_or_eq_true s.keyValid
    · refine ⟨_, execXorchunk_of_keyValid hl hv, ?_⟩
      rw [execXorchunk_of_keyValid (s := { s with sched := v }) hl hv, keystream, keystream, h]; rfl
    · exact ⟨_, execXorchunk_of_no_key hl hv, execXorchunk_of_no_key hl hv⟩
  · exact ⟨_, execXorchunk_of_len_rejected s hl, execXorchunk_of_len_rejected _ hl⟩

end

/-- Settles O35: Cipher reads only the round keys 0 to Nr, and both commands read SCHED only through Cipher. -/
theorem staleScheduleWordsAreUnobservable : Obligations.StaleScheduleWordsAreUnobservable := by
  refine ⟨fun input w w' nr h => cipher_congr h input, fun s v len rsvd bits h => ?_⟩
  obtain ⟨t, hs, hv⟩ := execEncblk_withSched (cipher_congr h)
  obtain ⟨t', hs', hv'⟩ := execXorchunk_withSched (cipher_congr h) len
  exact ⟨t, t', hs, hv, hs', hv'⟩

end Sys2Proof.Machine

/-!
PROOFS. The key derivation: the bytes of DeriveKey, and what KEYDERIVE makes of them (spec 43_key_derivation.md).
-/

namespace Sys2Proof.Machine

/-! ### The bytes of the derived key (R85, R87, R88) -/

/-- Only the first 16 bytes of the raw key are the block (R87). -/
theorem ofBytes_take_16 (raw : List Byte) : Block.ofBytes (raw.take 16) = Block.ofFn fun i => raw.getD i 0 := by
  simp [Block.ofBytes, Block.ofFn]

theorem deriveKey_take_16 (raw : List Byte) :
    (deriveKey raw).take 16 =
      (cipher (Block.ofFn fun i => raw.getD i 0) (keyExpansion raw).1 (raw.length / 4 + 6)).bytes := by
  rw [deriveKey, List.take_left' (derived16_length raw), derived16, ofBytes_take_16, keyExpansion_rounds]

theorem deriveKey_getD_of_lt (raw : List Byte) {i : Nat} (hi : i < 16) :
    (deriveKey raw).getD i 0 = (derived16 raw).getD i 0 := by
  rw [deriveKey, List.getD_append _ _ _ _ (by rwa [derived16_length])]

theorem deriveKey_getD_of_le {raw : List Byte} {i : Nat} (hlo : 16 ≤ i) (hhi : i < raw.length) :
    (deriveKey raw).getD i 0 = (derived16 raw).getD (i - 16) 0 := by
  rw [deriveKey, List.getD_append_right _ _ _ _ (by rwa [derived16_length]), derived16_length,
    List.getD_eq_getElem?_getD, List.getElem?_take_of_lt (by omega), List.getD_eq_getElem?_getD]

/-- Settles O36: every byte of the derived key is one of Derived16, at its own index or 16 below it. -/
theorem deriveKeyWrapsAround : Obligations.DeriveKeyWrapsAround := by
  intro raw hraw
  refine ⟨deriveKey_length raw (by omega) (by omega), deriveKey_take_16 raw, fun i hlo hhi => ?_⟩
  rw [deriveKey_getD_of_le hlo hhi, deriveKey_getD_of_lt raw (by omega)]

/-! ### KEYDERIVE (R86, R89) -/

/-- Settles O15: KEYDERIVE loads the expansion of the key derived from KEYB[0..N) and completes. -/
theorem keyderiveLoadsDerivedSchedule : Obligations.KeyderiveLoadsDerivedSchedule := by
  intro n len rsvd s hn
  have hexec : exec (.keyderive len rsvd (BitVec.ofNat 16 (8 * n))) s =
      .next (complete (loadSchedule (keyExpansion (deriveKey (rawKey n s))) s)) := by
    simp only [exec, execKeyderive, keyLength_ofNat hn]
  have hraw : (rawKey n s).length = n := rawKey_length n s (by omega)
  have hderived : (deriveKey (rawKey n s)).length = n := by rw [deriveKey_length, hraw] <;> omega
  obtain ⟨hbelow, habove, hnri⟩ := complete_loadSchedule_keyExpansion s hn hderived
  exact ⟨_, hexec, hbelow, habove, hnri, rfl⟩

end Sys2Proof.Machine

/-!
PROOFS. The counter stream: the counter block and the nonce of a time value byte by byte, CTRSEED and XORCHUNK, what
moves the block index, the inputs that a command does not read, and the chunks of a message (spec 44_counter_stream.md).
-/

namespace Sys2Proof.Machine

/-! ### The counter block and the nonce of a time value (R91, R92) -/

theorem counterBlock_get_of_lt (nonce : List Byte) (b : BitVec 64) {i : Nat} (hi : i < 8) :
    (counterBlock nonce b).get i = nonce.getD i 0 := by
  rw [counterBlock, block_ofFn_get _ _ (by omega), if_pos hi]

/-- The block index stands most significant byte first: its byte `c` is `c` places before the end (R91). -/
theorem counterBlock_get_sub (nonce : List Byte) (b : BitVec 64) {c : Nat} (hc : c < 8) :
    (counterBlock nonce b).get (15 - c) = b.extractLsb' (8 * c) 8 := by
  rw [counterBlock, block_ofFn_get _ _ (by omega), if_neg (by omega), Nat.sub_sub_self (by omega), byteOf64]

theorem nonceOfTime_getD (t : BitVec 64) {c : Nat} (hc : c < 8) :
    (nonceOfTime t).getD c 0 = t.extractLsb' (8 * c) 8 := by
  simp [nonceOfTime, byteOf64, hc]

/-- Settles O38: `counterBlock_get_sub` gives both halves of the block index. -/
theorem counterBlockLayout : Obligations.CounterBlockLayout := by
  refine ⟨fun nonce b => ⟨fun k hk => ?_, fun c hc => ?_, fun c hc => ?_⟩, fun t => ⟨?_, fun c hc => ?_⟩, ?_⟩
  · exact counterBlock_get_of_lt nonce b hk
  · exact counterBlock_get_sub nonce b (by omega)
  · rw [show 15 - c - 4 = 15 - (4 + c) by omega, counterBlock_get_sub nonce b (by omega), Nat.mul_add]
  · exact nonceOfTime_length t
  · exact nonceOfTime_getD t hc
  · decide

/-! ### CTRSEED (R92, R94) -/

/-- Settles O18: NONCEB of the next state is the nonce of the time value, and CTR is 0. -/
theorem ctrseedMeaning : Obligations.CtrseedMeaning := by
  intro len rsvd bits s
  refine ⟨_, rfl, fun c hc => ?_, ?_, rfl⟩
  · rw [nonceB_complete, nonceB_advanceDraws, nonceB_seedNonce, nonceOfTime_getD _ hc]
  · rw [ctr_complete, ctr_advanceDraws, ctr_seedNonce]

/-! ### XORCHUNK (R95 to R98) -/

theorem xorBlock_get (d ks : Block) (len : Nat) {i : Nat} (hi : i < 16) :
    (xorBlock d ks len).get i = if i < len then d.get i ^^^ ks.get i else 0x00 :=
  block_ofFn_get _ _ hi

/-- Settles O19: the output block byte by byte is `xorBlock_get`. -/
theorem xorchunkMeaning : Obligations.XorchunkMeaning := by
  intro len rsvd bits s hlo hhi hv
  refine ⟨_, execXorchunk_of_keyValid (lenAccepted_iff.mpr ⟨hlo, hhi⟩) hv, fun i hi => ?_, ?_, rfl⟩
  · rw [doutB_complete, doutB_setCtr, doutB_putDout, xorBlock_get _ _ _ hi, keystream]
  · rw [ctr_complete, ctr_setCtr, BitVec.toNat_add]; rfl

/-- Settles O39: both chunks meet the same keystream, since nonce, block index and schedule are the same, and XOR with
the same byte twice cancels. -/
theorem xorchunkIsItsOwnInverse : Obligations.XorchunkIsItsOwnInverse := by
  intro len rsvd bits s hlo hhi hv
  obtain ⟨t, ht, hout, -, hframe⟩ := xorchunkMeaning len rsvd bits s hlo hhi hv
  have hkv : t.keyValid = s.keyValid := by rw [hframe]
  have hnonce : nonceB t = nonceB s := by rw [hframe]; rfl
  have hsched : t.sched = s.sched := by rw [hframe]
  have hnri : t.nri = s.nri := by rw [hframe]
  obtain ⟨u, hu, hout', -, -⟩ := xorchunkMeaning len rsvd bits
    { t with din := t.dout, ctrLo := s.ctrLo, ctrHi := s.ctrHi } hlo hhi (hkv.trans hv)
  refine ⟨t, u, ht, hu, fun i hi => ?_⟩
  have hsecond : (doutB u).get i = (doutB t).get i ^^^
      (cipher (counterBlock (nonceB t) (ctr s)) t.sched.toList t.nri.toNat).get i :=
    (hout' i (by omega)).trans (if_pos hi)
  rw [hsecond, hout i (by omega), if_pos hi, hnonce, hsched, hnri, BitVec.xor_assoc, BitVec.xor_self,
    BitVec.xor_zero]

/-! ### What moves the block index (R24, R97) -/

@[simp] theorem ctr_releaseReset (s : State) : ctr (releaseReset s) = ctr s := rfl
@[simp] theorem ctr_dropWrite (s : State) : ctr (dropWrite s) = ctr s := rfl
@[simp] theorem ctr_assertReset (s : State) : ctr (assertReset s) = 0 := by
  simp [ctr, reset_ctrLo, reset_ctrHi]

@[simp] theorem ctr_writeStatus (v : Word) (s : State) : ctr (writeStatus v s) = ctr s := by
  rw [writeStatus_eq]; rfl

@[simp] theorem ctr_pollOnce (s : State) : ctr (pollOnce s) = ctr s := by
  unfold pollOnce; split <;> rfl

theorem ctr_writeReg {r : Reg} (hlo : r ≠ .ctrLo) (hhi : r ≠ .ctrHi) (v : Word) (s : State) :
    ctr (writeReg v s r) = ctr s := by
  cases r with
  | ctrLo => exact absurd rfl hlo
  | ctrHi => exact absurd rfl hhi
  | cmd | status | nonceLo | nonceHi | key | din | dout | reserved => rfl

/-- CTR_LO and CTR_HI stand at one offset each (R15). -/
theorem regAt_eq_ctr_iff (off : BitVec 7) : (regAt off = .ctrLo ↔ off = 0x08) ∧ (regAt off = .ctrHi ↔ off = 0x0C) := by
  revert off; decide

/-- A host write keeps CTR, or it is one of CTR_LO or CTR_HI while idle. -/
theorem ctr_hostWrite (off : BitVec 7) (v : Word) (s : State) :
    ctr (hostWrite off v s) = ctr s ∨ (s.busy = false ∧ (off = 0x08 ∨ off = 0x0C)) := by
  obtain ⟨-, h⟩ | ⟨-, -, h⟩ | ⟨-, -, -, h⟩ | ⟨-, -, hb, h⟩ := hostWrite_cases off v s
  · exact .inl (by rw [h])
  · exact .inl (by rw [h, ctr_writeStatus])
  · exact .inl (by rw [h, ctr_dropWrite])
  · obtain ⟨hlo, hhi⟩ := regAt_eq_ctr_iff off
    by_cases hoff : off = 0x08 ∨ off = 0x0C
    · exact .inr ⟨hb, hoff⟩
    · obtain ⟨h08, h0C⟩ := not_or.mp hoff
      exact .inl (by rw [h, ctr_writeReg (mt hlo.mp h08) (mt hhi.mp h0C)])

/-- An event keeps CTR, or it is a host write of CTR while idle, or the assertion of reset. -/
theorem ctr_takeEvent {e : Event} {s t : State} (h : takeEvent e s = .next t) :
    ctr t = ctr s ∨ (s.busy = false ∧ ∃ off v, e = .write 4 off v ∧ (off = 0x08 ∨ off = 0x0C)) ∨
    (e = .resetOn ∧ ctr t = 0) := by
  obtain ⟨bytes, off, -, -, rfl⟩ | ⟨bytes, off, v, rfl, hok, rfl⟩ | ⟨-, rfl⟩ | ⟨-, rfl⟩ | ⟨rfl, rfl⟩ | ⟨-, rfl⟩ :=
    takeEvent_next h
  case inr.inl =>
    obtain hkeep | ⟨hb, hoff⟩ := ctr_hostWrite off v s
    · exact .inl (by rw [ctr_dropEvent, hkeep])
    · obtain ⟨rfl, -⟩ : bytes = 4 ∧ off.toNat % 4 = 0 := by simpa [accessOk] using hok
      exact .inr (.inl ⟨hb, off, v, rfl, hoff⟩)
  case inr.inr.inr.inr.inl => exact .inr (.inr ⟨rfl, by rw [ctr_dropEvent, ctr_assertReset]⟩)
  all_goals exact .inl (by simp)

/-- A perform step keeps CTR, or it is a successful XORCHUNK, or CTRSEED. -/
theorem Performed.ctr {i : Instr} {s t : State} (h : Performed i s t) :
    ctr t = ctr s ∨ (opcode i = 0x5 ∧ t.err = .ok ∧ ctr t = ctr s + 1) ∨ (opcode i = 0x4 ∧ ctr t = 0) := by
  cases h with
  | stream hi => exact .inr (.inl ⟨hi, rfl, by simp⟩)
  | seed hi => exact .inr (.inr ⟨hi, by simp⟩)
  | nop | error | key | block => exact .inl rfl

/-- Settles O26: the perform step by `Performed.ctr`, any other step by what an event does to CTR. -/
theorem onlyTheseEventsMoveCtr : Obligations.OnlyTheseEventsMoveCtr := by
  intro s t h hne
  obtain ⟨hd, h⟩ | ⟨-, -, rfl⟩ | ⟨hd, e, es, hs, h⟩ := step_next h
  · have hop := opcode_decodeWord s.pend
    obtain hkeep | ⟨hi, herr, hctr⟩ | ⟨hi, hctr⟩ := (exec_performed h).ctr
    · exact absurd hkeep hne
    · exact .inl ⟨hd, congrArg BitVec.toNat (hop.symm.trans hi), herr, hctr⟩
    · exact .inr (.inl ⟨hd, congrArg BitVec.toNat (hop.symm.trans hi), hctr⟩)
  · exact absurd (ctr_tick s) hne
  · have hhead : s.script.head? = some e := by rw [hs, List.head?_cons]
    obtain hkeep | ⟨hb, off, v, rfl, hoff⟩ | ⟨rfl, hctr⟩ := ctr_takeEvent h
    · exact absurd (hkeep.trans (ctr_tick s)) hne
    · exact .inr (.inr (.inl ⟨hd, hb, off, v, hhead, hoff⟩))
    · exact .inr (.inr (.inr ⟨hd, hhead, hctr⟩))

/-! ### The inputs that a command does not read (R26, R95) -/

theorem xorBlock_congr {d d' : Block} {len : Nat} (ks : Block) (h : ∀ i, i < len → d.get i = d'.get i) :
    xorBlock d ks len = xorBlock d' ks len :=
  congrArg Block.ofFn <| funext fun i => ite_congr rfl (fun hi => by rw [h i hi]) fun _ => rfl

/-- DIN that agrees below LEN makes no difference to XORCHUNK, and stands unchanged after it. -/
theorem execXorchunk_withDin {len : BitVec 5} {s : State} {d : Vector Word 4}
    (h : ∀ i, i < len.toNat → (blockOfRegs d).get i = (dinB s).get i) :
    ∃ t, execXorchunk len s = .next t ∧ execXorchunk len { s with din := d } = .next { t with din := d } := by
  obtain hl | hl := Bool.eq_false_or_eq_true (lenAccepted len)
  · obtain hv | hv := Bool.eq_false_or_eq_true s.keyValid
    · refine ⟨_, execXorchunk_of_keyValid hl hv, ?_⟩
      rw [execXorchunk_of_keyValid (s := { s with din := d }) hl hv, ← xorBlock_congr _ h]; rfl
    · exact ⟨_, execXorchunk_of_no_key hl hv, execXorchunk_of_no_key hl hv⟩
  · exact ⟨_, execXorchunk_of_len_rejected s hl, execXorchunk_of_len_rejected _ hl⟩

/-- No command but the key commands reads KEY, and none of them changes it (R26). -/
theorem exec_withKey {i : Instr} (s : State) (k : Vector Word 8) (h1 : opcode i ≠ 0x1) (h2 : opcode i ≠ 0x2) :
    ∃ t, exec i s = .next t ∧ exec i { s with key := k } = .next { t with key := k } := by
  cases i with
  | keyexp => exact absurd rfl h1
  | keyderive => exact absurd rfl h2
  | nop | ctrseed | reservedOp6to7 | reservedOp8to15 => exact ⟨_, rfl, rfl⟩
  | encblk =>
    obtain hv | hv := Bool.eq_false_or_eq_true s.keyValid
    · exact ⟨_, execEncblk_of_keyValid hv, execEncblk_of_keyValid hv⟩
    · exact ⟨_, execEncblk_of_no_key hv, execEncblk_of_no_key hv⟩
  | xorchunk len =>
    obtain hl | hl := Bool.eq_false_or_eq_true (lenAccepted len)
    · obtain hv | hv := Bool.eq_false_or_eq_true s.keyValid
      · exact ⟨_, execXorchunk_of_keyValid hl hv, execXorchunk_of_keyValid hl hv⟩
      · exact ⟨_, execXorchunk_of_no_key hl hv, execXorchunk_of_no_key hl hv⟩
    · exact ⟨_, execXorchunk_of_len_rejected s hl, execXorchunk_of_len_rejected _ hl⟩

/-- Settles O40: XORCHUNK reads DIN through `xorBlock`, a key command reads KEY through `rawKey`, and no other command
reads KEY. -/
theorem unreadInputsHaveNoEffect : Obligations.UnreadInputsHaveNoEffect := by
  refine ⟨fun len rsvd bits s d h => execXorchunk_withDin h, fun i s k h1 h2 => exec_withKey s k h1 h2,
    fun len rsvd n s k hn hk => ?_⟩
  have hraw : rawKey n { s with key := k } = rawKey n s := hk
  simp only [exec, execKeyexp, execKeyderive, keyLength_ofNat hn, hraw]
  exact ⟨_, _, rfl, rfl, rfl, rfl⟩

/-! ### The chunks of a message (R99) -/

theorem chunksOf_length (p : List Byte) : (chunksOf p).length = (p.length + 15) / 16 := by
  simp [chunksOf]

theorem chunksOf_getElem_length (p : List Byte) {b : Nat} (hb : b < (chunksOf p).length) :
    ((chunksOf p)[b]).length = min 16 (p.length - 16 * b) := by
  simp [chunksOf]

/-- The first `n` chunks are the first `16 n` bytes. -/
theorem flatten_chunks_eq_take (p : List Byte) (n : Nat) :
    ((List.range n).map fun b => (p.drop (16 * b)).take 16).flatten = p.take (16 * n) := by
  induction n with
  | zero => simp
  | succ n ih =>
    rw [List.range_succ, List.map_append, List.flatten_append, ih, Nat.mul_succ, List.take_add]
    simp

theorem chunksOf_flatten (p : List Byte) : (chunksOf p).flatten = p := by
  rw [chunksOf, flatten_chunks_eq_take, List.take_of_length_le (by omega)]

/-- Settles O53: every chunk starts inside the message, and every chunk but the last ends inside it too. -/
theorem chunksPartitionTheMessage : Obligations.ChunksPartitionTheMessage := by
  intro p
  have hcount := chunksOf_length p
  refine ⟨hcount, chunksOf_flatten p, fun b hb => ?_, fun c hc => ?_⟩
  · rw [List.getD_eq_getElem _ _ (by omega), chunksOf_getElem_length]
    omega
  · obtain ⟨b, hb, rfl⟩ := List.getElem_of_mem hc
    rw [chunksOf_getElem_length]
    omega

end Sys2Proof.Machine

/-!
PROOFS. The calls of the source: the hex codec, the tokens of a ciphertext, the XOR of the chunks, the checks of the
calls and their round trip, and NOP (spec 45_host_protocol.md).
-/

namespace Sys2Proof.Machine

/-! ### The hex codec (R103, R104) -/

/-- The characters that R104 reads: decimal digits and the letters a to f of either case. -/
def IsHexDigit (c : Nat) : Prop := (0x30 ≤ c ∧ c ≤ 0x39) ∨ (0x61 ≤ c ∧ c ≤ 0x66) ∨ (0x41 ≤ c ∧ c ≤ 0x46)

theorem hexValue_isSome_iff (c : Nat) : (hexValue c).isSome = true ↔ IsHexDigit c := by
  unfold hexValue IsHexDigit
  split_ifs <;> simp_all

theorem hexValue_hexDigit {n : Nat} (hn : n < 16) : hexValue (hexDigit n) = some n := by
  interval_cases n <;> rfl

theorem hexDigit_ne_space (n : Nat) : hexDigit n ≠ space := by
  unfold hexDigit space
  split <;> omega

/-- Upper case, as far as hex digits go. -/
theorem hexValue_upper (c : Nat) :
    hexValue (if 0x61 ≤ c ∧ c ≤ 0x66 then c - 0x20 else c) = hexValue c := by
  split_ifs with h
  · obtain ⟨lo, hi⟩ := h
    interval_cases c <;> rfl
  · rfl

theorem unhex_cons_cons_of_some {h l x y : Nat} {rest : Text} {bs : List Byte} (hh : hexValue h = some x)
    (hl : hexValue l = some y) (hr : unhex rest = some bs) :
    unhex (h :: l :: rest) = some (BitVec.ofNat 8 (16 * x + y) :: bs) := by
  simp only [unhex, hh, hl, hr]

theorem unhex_cons_cons_eq_some_iff {h l : Nat} {rest : Text} {r : List Byte} :
    unhex (h :: l :: rest) = some r ↔ ∃ x y bs, hexValue h = some x ∧ hexValue l = some y ∧
      unhex rest = some bs ∧ r = BitVec.ofNat 8 (16 * x + y) :: bs := by
  constructor
  · intro hr
    rw [unhex] at hr
    split at hr
    · rename_i x y bs hh hl hrest
      cases hr
      exact ⟨x, y, bs, hh, hl, hrest, rfl⟩
    · cases hr
  · rintro ⟨x, y, bs, hh, hl, hrest, rfl⟩
    exact unhex_cons_cons_of_some hh hl hrest

theorem unhex_cons_cons_isSome_iff {h l : Nat} {rest : Text} :
    (unhex (h :: l :: rest)).isSome = true ↔ IsHexDigit h ∧ IsHexDigit l ∧ (unhex rest).isSome = true := by
  simp only [← hexValue_isSome_iff, Option.isSome_iff_exists, unhex_cons_cons_eq_some_iff]
  constructor
  · rintro ⟨-, x, y, bs, hh, hl, hrest, -⟩
    exact ⟨⟨x, hh⟩, ⟨y, hl⟩, ⟨bs, hrest⟩⟩
  · rintro ⟨⟨x, hh⟩, ⟨y, hl⟩, ⟨bs, hrest⟩⟩
    exact ⟨_, x, y, bs, hh, hl, hrest, rfl⟩

theorem unhex_isSome_iff : ∀ t : Text, (unhex t).isSome = true ↔ t.length % 2 = 0 ∧ ∀ c ∈ t, IsHexDigit c
  | [] => by simp [unhex]
  | [_] => by simp [unhex]
  | h :: l :: rest => by
    rw [unhex_cons_cons_isSome_iff, unhex_isSome_iff rest]
    simp only [List.forall_mem_cons, List.length_cons, Nat.add_assoc, Nat.add_mod_right]
    tauto

/-- Unhex makes one byte of two characters. -/
theorem length_of_unhex : ∀ {t : Text} {bs : List Byte}, unhex t = some bs → t.length = 2 * bs.length
  | [], _, h => by cases h; rfl
  | [_], _, h => by cases h
  | _ :: _ :: rest, _, h => by
    obtain ⟨x, y, bs, -, -, hrest, rfl⟩ := unhex_cons_cons_eq_some_iff.mp h
    simp only [List.length_cons, length_of_unhex hrest]
    omega

theorem unhex_map_upper :
    ∀ t : Text, unhex (t.map fun c => if 0x61 ≤ c ∧ c ≤ 0x66 then c - 0x20 else c) = unhex t
  | [] => rfl
  | [_] => rfl
  | h :: l :: rest => by
    simp only [List.map_cons, unhex, hexValue_upper, unhex_map_upper rest]

theorem hex_cons (b : Byte) (s : List Byte) :
    hex (b :: s) = hexDigit (b.toNat / 16) :: hexDigit (b.toNat % 16) :: hex s := rfl

@[simp] theorem unhex_hex (s : List Byte) : unhex (hex s) = some s := by
  induction s with
  | nil => rfl
  | cons b s ih =>
    have hhigh : hexValue (hexDigit (b.toNat / 16)) = some (b.toNat / 16) := hexValue_hexDigit (by omega)
    have hlow : hexValue (hexDigit (b.toNat % 16)) = some (b.toNat % 16) := hexValue_hexDigit (by omega)
    rw [hex_cons, unhex_cons_cons_of_some hhigh hlow ih, Nat.div_add_mod, BitVec.ofNat_toNat, BitVec.setWidth_eq]

@[simp] theorem hex_length (s : List Byte) : (hex s).length = 2 * s.length :=
  length_of_unhex (unhex_hex s)

theorem ne_space_of_mem_hex {s : List Byte} {c : Nat} (h : c ∈ hex s) : c ≠ space := by
  obtain ⟨b, -, hc⟩ := List.mem_flatMap.mp h
  obtain rfl | rfl : c = hexDigit (b.toNat / 16) ∨ c = hexDigit (b.toNat % 16) := by simpa using hc
  all_goals exact hexDigit_ne_space _

/-- Settles O52: Unhex reads two characters at a time, and each clause is an induction along them. -/
theorem hexRoundTrip : Obligations.HexRoundTrip :=
  ⟨fun s => ⟨unhex_hex s, hex_length s⟩, unhex_isSome_iff, unhex_map_upper⟩

/-! ### The tokens of a ciphertext (R108, R110, R113) -/

theorem tokens_of_no_space {t : Text} (h : ∀ c ∈ t, c ≠ space) : tokens t = [t] := by
  induction t with
  | nil => rfl
  | cons c t ih =>
    obtain ⟨hc, ht⟩ := List.forall_mem_cons.mp h
    rw [tokens, if_neg hc, ih ht]

theorem tokens_append_space {t : Text} (rest : Text) (h : ∀ c ∈ t, c ≠ space) :
    tokens (t ++ space :: rest) = t :: tokens rest := by
  induction t with
  | nil => simp [tokens]
  | cons c t ih =>
    obtain ⟨hc, ht⟩ := List.forall_mem_cons.mp h
    rw [List.cons_append, tokens, if_neg hc, ih ht]

theorem cipherText_cons (nonce c : List Byte) (cs : List (List Byte)) :
    cipherText nonce (c :: cs) = hex nonce ++ space :: cipherText c cs := by
  simp [cipherText]

/-- The tokens of a ciphertext are the nonce and the chunks, in hex. -/
theorem tokens_cipherText (nonce : List Byte) (chunks : List (List Byte)) :
    tokens (cipherText nonce chunks) = hex nonce :: chunks.map hex := by
  induction chunks generalizing nonce with
  | nil => simpa [cipherText] using tokens_of_no_space fun c => ne_space_of_mem_hex
  | cons c cs ih => rw [cipherText_cons, tokens_append_space _ fun c => ne_space_of_mem_hex, ih, List.map_cons]

theorem tokenBytes_hex (s : List Byte) : tokenBytes (hex s) = s := by
  rw [tokenBytes, unhex_hex, Option.getD_some]

@[simp] theorem cipherNonce_cipherText (nonce : List Byte) (chunks : List (List Byte)) :
    cipherNonce (cipherText nonce chunks) = nonce := by
  rw [cipherNonce, tokens_cipherText, List.headD_cons, tokenBytes_hex]

@[simp] theorem cipherChunks_cipherText (nonce : List Byte) (chunks : List (List Byte)) :
    cipherChunks (cipherText nonce chunks) = chunks := by
  rw [cipherChunks, tokens_cipherText, List.drop_one, List.tail_cons, List.map_map]
  exact List.map_id'' tokenBytes_hex chunks

/-- The sizes a chunk can have (R99, R110). -/
def ChunkSized (chunks : List (List Byte)) : Prop := ∀ c ∈ chunks, 1 ≤ c.length ∧ c.length ≤ 16

theorem chunkSized_chunksOf (p : List Byte) : ChunkSized (chunksOf p) := by
  obtain ⟨-, -, -, hsize⟩ := chunksPartitionTheMessage p
  exact hsize

theorem tokenBytes_length {t : Text} (h : (unhex t).isSome = true) : t.length = 2 * (tokenBytes t).length := by
  obtain ⟨bs, hbs⟩ := Option.isSome_iff_exists.mp h
  rw [tokenBytes, hbs, Option.getD_some, length_of_unhex hbs]

theorem chunkTokenOk_iff {t : Text} :
    chunkTokenOk t = true ↔ (unhex t).isSome = true ∧ 1 ≤ (tokenBytes t).length ∧ (tokenBytes t).length ≤ 16 := by
  simp only [chunkTokenOk, Bool.and_eq_true, beq_iff_eq, decide_eq_true_eq]
  constructor
  · rintro ⟨⟨⟨-, lo⟩, hi⟩, hsome⟩
    have hlen := tokenBytes_length hsome
    exact ⟨hsome, by omega, by omega⟩
  · rintro ⟨hsome, lo, hi⟩
    have hlen := tokenBytes_length hsome
    exact ⟨⟨⟨by omega, by omega⟩, by omega⟩, hsome⟩

/-- A well-formed ciphertext has an 8-byte nonce and chunks of 1 to 16 bytes (R110). -/
theorem cipherTextOk_sizes {c : Text} (h : cipherTextOk c = true) :
    (cipherNonce c).length = 8 ∧ ChunkSized (cipherChunks c) := by
  unfold cipherTextOk at h
  split at h
  · cases h
  · rename_i t0 ts htok
    simp only [Bool.and_eq_true, beq_iff_eq, List.all_eq_true] at h
    obtain ⟨⟨hlen, hsome⟩, hts⟩ := h
    have hnonce := tokenBytes_length hsome
    refine ⟨by rw [cipherNonce, htok, List.headD_cons]; omega, fun d hd => ?_⟩
    rw [cipherChunks, htok] at hd
    obtain ⟨t, ht, rfl⟩ := List.mem_map.mp hd
    exact (chunkTokenOk_iff.mp (hts t ht)).2

/-- And every nonce and chunks of these sizes make a well-formed ciphertext. -/
theorem cipherTextOk_cipherText {nonce : List Byte} {chunks : List (List Byte)} (hn : nonce.length = 8)
    (hc : ChunkSized chunks) : cipherTextOk (cipherText nonce chunks) = true := by
  have hchunk (c : List Byte) (h : c ∈ chunks) : chunkTokenOk (hex c) = true :=
    chunkTokenOk_iff.mpr ⟨by simp, by rw [tokenBytes_hex]; exact hc c h⟩
  simpa [cipherTextOk, tokens_cipherText, hn] using hchunk

theorem cipherText_length (nonce : List Byte) (chunks : List (List Byte)) :
    (cipherText nonce chunks).length = 2 * nonce.length + chunks.length + 2 * chunks.flatten.length := by
  induction chunks generalizing nonce with
  | nil => simp [cipherText]
  | cons c cs ih =>
    rw [cipherText_cons, List.length_append, List.length_cons, ih]
    simp only [hex_length, List.length_cons, List.flatten_cons, List.length_append]
    omega

theorem cipherText_take {nonce : List Byte} (hn : nonce.length = 8) (chunks : List (List Byte)) :
    (cipherText nonce chunks).take 16 = hex nonce :=
  List.take_left' (by rw [hex_length, hn])

/-! ### The XOR of the chunks (R96, R99) -/

section
variable (w : List SWord × Nat) (nonce : List Byte)

theorem xorChunk_length {d : List Byte} (b : Nat) (hd : d.length ≤ 16) : (xorChunk w nonce b d).length = d.length := by
  simpa [xorChunk] using hd

/-- XOR with the same keystream twice cancels. -/
theorem xorChunk_xorChunk {d : List Byte} (b : Nat) (hd : d.length ≤ 16) :
    xorChunk w nonce b (xorChunk w nonce b d) = d := by
  refine List.ext_getElem (by simpa [xorChunk] using hd) fun i hi _ => ?_
  simp [xorChunk]

@[simp] theorem xorChunks_length (chunks : List (List Byte)) : (xorChunks w nonce chunks).length = chunks.length := by
  simp [xorChunks]

theorem xorChunks_getElem (chunks : List (List Byte)) {b : Nat} (hb : b < (xorChunks w nonce chunks).length) :
    (xorChunks w nonce chunks)[b] = xorChunk w nonce b (chunks[b]'(by simpa using hb)) := by
  simp [xorChunks]

theorem xorChunks_map_length {chunks : List (List Byte)} (h : ChunkSized chunks) :
    (xorChunks w nonce chunks).map List.length = chunks.map List.length := by
  refine List.ext_getElem (by simp) fun b hb hb' => ?_
  rw [List.length_map] at hb'
  rw [List.getElem_map, List.getElem_map, xorChunks_getElem,
    xorChunk_length w nonce b (h _ (List.getElem_mem hb')).2]

theorem chunkSized_xorChunks {chunks : List (List Byte)} (h : ChunkSized chunks) :
    ChunkSized (xorChunks w nonce chunks) := by
  intro c hc
  have hmem : c.length ∈ chunks.map List.length := xorChunks_map_length w nonce h ▸ List.mem_map_of_mem hc
  obtain ⟨d, hd, hlen⟩ := List.mem_map.mp hmem
  exact hlen ▸ h d hd

theorem xorChunks_xorChunks {chunks : List (List Byte)} (h : ChunkSized chunks) :
    xorChunks w nonce (xorChunks w nonce chunks) = chunks := by
  refine List.ext_getElem (by simp) fun b _ hb => ?_
  rw [xorChunks_getElem, xorChunks_getElem, xorChunk_xorChunk w nonce b (h _ (List.getElem_mem hb)).2]

theorem xorChunks_flatten_length {chunks : List (List Byte)} (h : ChunkSized chunks) :
    (xorChunks w nonce chunks).flatten.length = chunks.flatten.length := by
  rw [List.length_flatten, List.length_flatten, xorChunks_map_length w nonce h]

end

/-! ### The texts of the two calls (R108, R109, R112) -/

/-- Settles O54: XOR keeps the chunks' sizes, so the form is that of a ciphertext of the message's own chunks. -/
theorem cipherTextForm : Obligations.CipherTextForm := by
  intro raw p t
  have hsized := chunkSized_chunksOf p
  refine ⟨?_, ?_, ?_, ?_⟩
  · exact cipherTextOk_cipherText (nonceOfTime_length t) (chunkSized_xorChunks _ _ hsized)
  · rw [encryptBytes, cipherText_length, nonceOfTime_length, xorChunks_length, chunksOf_length,
      xorChunks_flatten_length _ _ hsized, chunksOf_flatten]
  · exact cipherText_take (nonceOfTime_length t) _
  · simp [encryptBytes, chunksOf, xorChunks, cipherText]

theorem decryptBytes_encryptBytes (raw p : List Byte) (t : BitVec 64) :
    decryptBytes raw (encryptBytes raw p t) = p := by
  rw [decryptBytes, encryptBytes, cipherNonce_cipherText, cipherChunks_cipherText,
    xorChunks_xorChunks _ _ (chunkSized_chunksOf p), chunksOf_flatten]

/-! ### The checks of a call (R102, R105, R106, R113) -/

theorem bitsAccepted_iff {bits : Int} : bitsAccepted bits = true ↔ bits = 128 ∨ bits = 192 ∨ bits = 256 := by
  simp [bitsAccepted, or_assoc]

theorem byteCodes_iff {t : Text} : byteCodes t = true ↔ ∀ c ∈ t, c ≤ 255 := by
  simp [byteCodes]

theorem byteCodes_eq_false_iff {t : Text} : byteCodes t = false ↔ ∃ c ∈ t, 255 < c := by
  simp [byteCodes]

theorem keyTextOk_iff {n : Nat} {k : Text} : keyTextOk n k = true ↔ n ≤ k.length ∧ ∀ c ∈ k.take n, c ≤ 255 := by
  rw [keyTextOk, Bool.and_eq_true, decide_eq_true_iff, byteCodes_iff]

theorem keyTextOk_eq_false_iff {n : Nat} {k : Text} :
    keyTextOk n k = false ↔ k.length < n ∨ ∃ c ∈ k.take n, 255 < c := by
  rw [keyTextOk, Bool.and_eq_false_iff, decide_eq_false_iff_not, byteCodes_eq_false_iff, not_le]

section
variable {p k : Text} {bits : Int} (t : BitVec 64)

theorem encrypt_of_bits_rejected (hb : bitsAccepted bits = false) : encrypt p k bits t = .next [] := by
  simp [encrypt, hb]

theorem decrypt_of_bits_rejected (hb : bitsAccepted bits = false) : decrypt p k bits = .next [] := by
  simp [decrypt, hb]

variable (hb : bitsAccepted bits = true)
include hb

theorem encrypt_of_key_rejected (hk : keyTextOk (bitsLength bits) k = false) :
    encrypt p k bits t = .refused .invalidText := by
  simp [encrypt, hb, hk]

theorem decrypt_of_key_rejected (hk : keyTextOk (bitsLength bits) k = false) :
    decrypt p k bits = .refused .invalidText := by
  simp [decrypt, hb, hk]

variable (hk : keyTextOk (bitsLength bits) k = true)
include hk

theorem encrypt_of_text_rejected (hp : byteCodes p = false) : encrypt p k bits t = .refused .invalidText := by
  simp [encrypt, hb, hk, hp]

theorem encrypt_of_accepted (hp : byteCodes p = true) :
    encrypt p k bits t = .next (encryptBytes (keyTextBytes (bitsLength bits) k) (textBytes p) t) := by
  simp [encrypt, hb, hk, hp]

theorem decrypt_of_malformed (hp : cipherTextOk p = false) : decrypt p k bits = .fault (.malformedCiphertext p) := by
  simp [decrypt, hb, hk, hp]

theorem decrypt_of_accepted (hp : cipherTextOk p = true) :
    decrypt p k bits = .next (bytesText (decryptBytes (keyTextBytes (bitsLength bits) k) p)) := by
  simp [decrypt, hb, hk, hp]

end

/-- Settles O55: one equation for each outcome of a call's checks. -/
theorem callChecksInOrder : Obligations.CallChecksInOrder := by
  intro p k bits t
  refine ⟨fun h128 h192 h256 => ?_, fun hbits => ⟨fun hkey => ?_, fun hlen hcodes => ?_⟩⟩
  · have hb : bitsAccepted bits = false := by
      rw [← Bool.not_eq_true, bitsAccepted_iff]; tauto
    exact ⟨encrypt_of_bits_rejected t hb, decrypt_of_bits_rejected hb⟩
  · have hb := bitsAccepted_iff.mpr hbits
    have hk := keyTextOk_eq_false_iff.mpr hkey
    exact ⟨encrypt_of_key_rejected t hb hk, decrypt_of_key_rejected hb hk⟩
  · have hb := bitsAccepted_iff.mpr hbits
    have hk := keyTextOk_iff.mpr ⟨hlen, hcodes⟩
    exact ⟨fun hp => encrypt_of_text_rejected t hb hk (byteCodes_eq_false_iff.mpr hp),
      fun hp => ⟨_, encrypt_of_accepted t hb hk (byteCodes_iff.mpr hp)⟩,
      decrypt_of_malformed hb hk, fun hp => ⟨_, decrypt_of_accepted hb hk hp⟩⟩

/-- What `encrypt` gives for accepted `bits`, it gives for an accepted key text and message. -/
theorem encrypt_next {p k c : Text} {bits : Int} {t : BitVec 64} (hb : bitsAccepted bits = true)
    (h : encrypt p k bits t = .next c) :
    keyTextOk (bitsLength bits) k = true ∧ byteCodes p = true ∧
      c = encryptBytes (keyTextBytes (bitsLength bits) k) (textBytes p) t := by
  obtain hk | hk := Bool.eq_false_or_eq_true (keyTextOk (bitsLength bits) k)
  · obtain hp | hp := Bool.eq_false_or_eq_true (byteCodes p)
    · rw [encrypt_of_accepted t hb hk hp] at h
      cases h
      exact ⟨hk, hp, rfl⟩
    · rw [encrypt_of_text_rejected t hb hk hp] at h
      cases h
  · rw [encrypt_of_key_rejected t hb hk] at h
    cases h

/-- Text to bytes and back (R106). -/
theorem bytesText_textBytes {p : Text} (h : byteCodes p = true) : bytesText (textBytes p) = p := by
  have hcode (c : Nat) (hc : c ∈ p) : (BitVec.ofNat 8 c).toNat = c := by
    have hle : c ≤ 255 := byteCodes_iff.mp h c hc
    rw [BitVec.toNat_ofNat, Nat.mod_eq_of_lt (by omega)]
  rw [bytesText, textBytes, List.map_map]
  exact (List.map_congr_left hcode).trans (List.map_id' p)

/-- Settles O56: the result is well-formed and holds the message's chunks XORed once; `decrypt` XORs them again. -/
theorem decryptUndoesEncrypt : Obligations.DecryptUndoesEncrypt := by
  intro p k c bits t hbits h
  have hb := bitsAccepted_iff.mpr hbits
  obtain ⟨hk, hp, rfl⟩ := encrypt_next hb h
  obtain ⟨hform, -⟩ := cipherTextForm (keyTextBytes (bitsLength bits) k) (textBytes p) t
  rw [decrypt_of_accepted hb hk hform, decryptBytes_encryptBytes, bytesText_textBytes hp]

/-! ### NOP (R100) -/

/-- STATUS holds nothing but its fields (R17). -/
theorem statusWord_congr {s t : State} (hlen : s.outLen = t.outLen) (hnri : s.nri = t.nri) (herr : s.err = t.err)
    (hovr : s.ovr = t.ovr) (hkv : s.keyValid = t.keyValid) (hb : s.busy = t.busy) : statusWord s = statusWord t := by
  rw [statusWord, statusWord, hlen, hnri, herr, hovr, hkv, hb]

/-- Settles O12: the word and the effects are evaluated; in the example every field of STATUS but ERR is read off as
0, so the completed state shows what the reset state shows. -/
theorem nopMeaning : Obligations.NopMeaning := by
  refine ⟨rfl, fun len rsvd bits s => rfl, fun s hb => ?_, fun s _ hst => ⟨complete s, rfl, ?_⟩⟩
  · rw [busWrite, if_neg (by decide), if_pos hb, dropWrite]
  · have hkv := congrArg (·.getLsbD 1) hst
    have hovr := congrArg (·.getLsbD 2) hst
    have hnri := congrArg (·.extractLsb' 8 4) hst
    have hlen := congrArg (·.extractLsb' 16 5) hst
    simp only [statusWord_keyValid, statusWord_ovr, statusWord_nri, statusWord_outLen] at hkv hovr hnri hlen
    exact statusWord_congr (t := State.reset) hlen hnri rfl hovr hkv rfl

end Sys2Proof.Machine

/-!
PROOFS. The register sequences of the calls, run on the machine: what the engine's registers are after each access and
command of an idle host, and the replies the host makes of its reads (spec 45_host_protocol.md).
-/

namespace Sys2Proof.Machine

/-! ### The registers of an idle machine -/

/-- The engine's registers apart from BUSY and PEND: the state with the environment's fields emptied. What the next
accesses and commands of an idle host do depends on nothing else. -/
def engine (s : State) : State := { s with busy := false, pend := 0, wait := 0, script := [], reads := [] }

@[simp] theorem engine_tick (s : State) : engine (tick s) = engine s := rfl
@[simp] theorem engine_dropEvent (s : State) : engine (dropEvent s) = engine s := rfl

/-- No command reads what `engine` empties. -/
theorem exec_engine {i : Instr} {s u : State} (h : exec i s = .next u) : exec i (engine s) = .next (engine u) := by
  cases i with
  | nop | ctrseed | reservedOp6to7 | reservedOp8to15 => cases h; rfl
  | keyexp _ _ bits | keyderive _ _ bits =>
    simp only [exec, execKeyexp, execKeyderive] at h ⊢
    split at h <;> cases h <;> rfl
  | encblk =>
    simp only [exec] at h ⊢
    obtain hv | hv := Bool.eq_false_or_eq_true s.keyValid
    · rw [execEncblk_of_keyValid hv] at h; cases h
      exact execEncblk_of_keyValid (s := engine s) hv
    · rw [execEncblk_of_no_key hv] at h; cases h
      exact execEncblk_of_no_key (s := engine s) hv
  | xorchunk len =>
    simp only [exec] at h ⊢
    obtain hl | hl := Bool.eq_false_or_eq_true (lenAccepted len)
    · obtain hv | hv := Bool.eq_false_or_eq_true s.keyValid
      · rw [execXorchunk_of_keyValid hl hv] at h; cases h
        exact execXorchunk_of_keyValid (s := engine s) hl hv
      · rw [execXorchunk_of_no_key hl hv] at h; cases h
        exact execXorchunk_of_no_key (s := engine s) hl hv
    · rw [execXorchunk_of_len_rejected _ hl] at h; cases h
      exact execXorchunk_of_len_rejected _ hl

/-- The registers that hold data for the host, to be written or read. -/
def Reg.holdsData : Reg → Bool
  | .cmd | .status | .reserved => false
  | .ctrLo | .ctrHi | .nonceLo | .nonceHi | .key _ | .din _ | .dout _ => true

section
variable {r : Reg} (hd : r.holdsData = true)
include hd

theorem ne_status_of_holdsData : r ≠ .status := by
  rintro rfl; cases hd

theorem engine_writeReg (v : Word) (s : State) : engine (writeReg v s r) = writeReg v (engine s) r := by
  cases r with
  | cmd | status | reserved => cases hd
  | ctrLo | ctrHi | nonceLo | nonceHi | key | din | dout => rfl

theorem readReg_engine (s : State) : readReg (engine s) r = readReg s r := by
  cases r with
  | cmd | status | reserved => cases hd
  | ctrLo | ctrHi | nonceLo | nonceHi | key | din | dout => rfl

/-- A write of data moves only the register it writes. -/
theorem writeReg_frame (v : Word) (s : State) :
    (writeReg v s r).busy = s.busy ∧ (writeReg v s r).script = s.script ∧ (writeReg v s r).reads = s.reads := by
  cases r with
  | cmd | status | reserved => cases hd
  | ctrLo | ctrHi | nonceLo | nonceHi | key | din | dout => exact ⟨rfl, rfl, rfl⟩

end

theorem aligned_of_holdsData {off : BitVec 7} : (regAt off).holdsData = true → off.toNat % 4 = 0 := by
  revert off; decide

/-! ### What the host keeps of its reads (R57) -/

theorem dataBytes_append (rs rs' : List HostRead) : dataBytes (rs ++ rs') = dataBytes rs ++ dataBytes rs' := by
  simp [dataBytes]

theorem dataBytes_replicate_status (n : Nat) (v : Word) :
    dataBytes (List.replicate n ⟨statusOff, v⟩) = [] := by
  simp [dataBytes]

theorem dataBytes_status (v : Word) : dataBytes [⟨statusOff, v⟩] = [] := dataBytes_replicate_status 1 v

theorem dataBytes_of_ne_status {off : BitVec 7} (v : Word) (h : off ≠ statusOff) :
    dataBytes [⟨off, v⟩] = (lanes v).bytes := by
  simp [dataBytes, h]

/-! ### POLL (R57, R138) -/

theorem pollOnce_of_busy {s : State} (hr : s.rst = false) (hb : s.busy = true) :
    pollOnce s = logRead statusOff (statusWord s) s := by
  rw [pollOnce, hostRead_status hr, if_pos (by rw [statusWord_busy, hb])]

theorem pollOnce_of_idle {s : State} (hr : s.rst = false) (hb : s.busy = false) :
    pollOnce s = dropEvent (logRead statusOff (statusWord s) s) := by
  rw [pollOnce, hostRead_status hr, if_neg (by rw [statusWord_busy, hb]; decide)]

/-- POLL reads STATUS with BUSY = 1 once an interval, the pending command is performed, and the read after that ends
POLL: an induction on the intervals left. -/
theorem run_poll {rest : List Event} : ∀ {k : Nat} {s : State}, s.wait = k → s.rst = false → s.busy = true →
    s.script = .poll :: rest →
    ∃ u, exec (decodeWord s.pend) { s with
          wait := 0, reads := s.reads ++ List.replicate k ⟨statusOff, statusWord s⟩ } = .next u ∧
      Host.Core.run core (k + 2) s = .next { u with
        wait := 0, script := rest, reads := u.reads ++ [⟨statusOff, statusWord u⟩] }
  | 0, s, hw, hr, hb, hs => by
    obtain ⟨u, hu⟩ := exec_total (decodeWord s.pend) s
    obtain ⟨-, -, -, -, hur, huw, hus, -, hub⟩ := noCommandChangesKeyDinOvr _ _ _ hu
    have hperform : step s = .next u := by rw [step_of_performDue (performDue_iff.mpr ⟨hr, hb, hw⟩), hu]
    have hpoll : step u = .next (pollOnce (tick u)) :=
      step_of_script_cons (performDue_eq_false_iff.mpr (.inr (.inl hub))) (hus.trans hs)
    refine ⟨u, ?_, ?_⟩
    · rw [← hu, List.replicate_zero, List.append_nil, ← hw]
    · rw [run_succ_next hperform, run_succ_next hpoll, pollOnce_of_idle (s := tick u) (hur.trans hr) hub,
        statusWord_tick]
      simp [Host.Core.run, dropEvent, logRead, tick, huw, hw, hus, hs]
  | k + 1, s, hw, hr, hb, hs => by
    have hpoll : step s = .next (logRead statusOff (statusWord s) (tick s)) := by
      rw [step_of_script_cons (performDue_eq_false_iff.mpr (.inr (.inr (by omega)))) hs, takeEvent,
        pollOnce_of_busy (s := tick s) hr hb, statusWord_tick]
    obtain ⟨u, hu, hrun⟩ := run_poll (k := k) (s := logRead statusOff (statusWord s) (tick s)) (by simp [hw]) hr hb hs
    refine ⟨u, ?_, ?_⟩
    · rw [← hu, statusWord_logRead, statusWord_tick]
      simp [logRead, tick, List.replicate_succ]
    · rw [run_succ_next hpoll, hrun]

/-! ### The rules for a host's sequence -/

/-- An idle machine with registers `a` and the events `es` to come. -/
structure IdleAt (a : State) (es : List Event) (s : State) : Prop where
  busy : s.busy = false
  rst : s.rst = false
  registers : engine s = a
  script : s.script = es

/-- For every latency, an idle machine takes the registers from `a` to `b` over the events `es`, is idle again after
them, and the host has read the data bytes `bs`. -/
def Serves (es : List Event) (a b : State) (bs : List Byte) : Prop :=
  ∀ (s : State) (rest : List Event), IdleAt a (es ++ rest) s →
    ∃ (n : Nat) (t : State) (new : List HostRead), Host.Core.run core n s = .next t ∧ IdleAt b rest t ∧
      t.reads = s.reads ++ new ∧ dataBytes new = bs

theorem serves_nil (a : State) : Serves [] a a [] :=
  fun s _ hs => ⟨0, s, [], rfl, hs, (List.append_nil _).symm, rfl⟩

theorem Serves.append {es es' : List Event} {a b c : State} {bs bs' : List Byte} (h : Serves es a b bs)
    (h' : Serves es' b c bs') : Serves (es ++ es') a c (bs ++ bs') := by
  intro s rest hs
  obtain ⟨n, t, new, hrun, ht, hreads, hbs⟩ := h s (es' ++ rest) (List.append_assoc .. ▸ hs)
  obtain ⟨n', t', new', hrun', ht', hreads', hbs'⟩ := h' t rest ht
  refine ⟨n + n', t', new ++ new', (run_add (M := core) hrun).trans hrun', ht', ?_, ?_⟩
  · rw [hreads', hreads, List.append_assoc]
  · rw [dataBytes_append, hbs, hbs']

/-- An idle machine takes the next event, whatever it is. -/
theorem IdleAt.step_eq {a s : State} {e : Event} {es : List Event} (hs : IdleAt a (e :: es) s) :
    step s = takeEvent e (tick s) :=
  step_of_script_cons (performDue_eq_false_iff.mpr (.inr (.inl hs.busy))) hs.script

theorem serves_wr (a : State) (v : Word) {off : BitVec 7} {r : Reg} (h : regAt off = r) (hd : r.holdsData = true) :
    Serves [wr off v] a (writeReg v a r) [] := by
  intro s rest hs
  obtain ⟨hbusy, hscript, hreads⟩ := writeReg_frame hd v (tick s)
  have hwrite : hostWrite off v (tick s) = writeReg v (tick s) r := by
    rw [hostWrite, tick_rst, hs.rst, if_neg Bool.false_ne_true]
    exact busWrite_of_regAt v hs.busy h (ne_status_of_holdsData hd)
  have hstep : step s = .next (dropEvent (writeReg v (tick s) r)) := by
    rw [hs.step_eq, wr, takeEvent_write _ _ (aligned_of_holdsData (h ▸ hd)), hwrite]
  refine ⟨1, _, [], run_succ_next hstep, ⟨?_, ?_, ?_, ?_⟩, ?_, rfl⟩
  · exact hbusy.trans hs.busy
  · exact (writeReg_rst v (tick s) r).trans hs.rst
  · rw [engine_dropEvent, engine_writeReg hd, engine_tick, hs.registers]
  · rw [dropEvent_script, hscript, tick_script, hs.script]; rfl
  · rw [dropEvent_reads, hreads, tick_reads, List.append_nil]

theorem serves_rd (a : State) {off : BitVec 7} {r : Reg} (h : regAt off = r) (hd : r.holdsData = true) :
    Serves [rd off] a a (lanes (readReg a r)).bytes := by
  intro s rest hs
  have hoff : off ≠ statusOff :=
    mt (regAt_eq_status_iff off).mpr (h ▸ ne_status_of_holdsData hd)
  have hread : hostRead off (tick s) = readReg a r := by
    rw [hostRead_tick, hostRead, hs.rst, if_neg Bool.false_ne_true, busRead_of_regAt s h, ← hs.registers,
      readReg_engine hd]
  have hstep : step s = .next (dropEvent (logRead off (readReg a r) (tick s))) := by
    rw [hs.step_eq, rd, takeEvent_read _ (aligned_of_holdsData (h ▸ hd)), hread]
  exact ⟨1, _, [⟨off, readReg a r⟩], run_succ_next hstep,
    ⟨hs.busy, hs.rst, hs.registers, congrArg (List.drop 1) hs.script⟩, rfl, dataBytes_of_ne_status _ hoff⟩

/-- An idle machine accepts the command that the host writes to CMD (R16, R39). -/
theorem IdleAt.accepts {a s : State} {i : Instr} {es : List Event} (hs : IdleAt a (cmdEvent i :: es) s) :
    ∃ t, step s = .next t ∧ t.rst = false ∧ t.busy = true ∧ t.pend = encode i ∧ t.script = es ∧ t.reads = s.reads ∧
      engine t = advanceDraws a := by
  have hstep : step s = .next (dropEvent (accept (encode i) (tick s))) := by
    rw [hs.step_eq, cmdEvent, wr, takeEvent_write _ _ rfl, cmdOff, hostWrite_cmd (s := tick s) _ hs.rst hs.busy]
  exact ⟨_, hstep, hs.rst, rfl, rfl, congrArg (List.drop 1) hs.script, rfl, congrArg advanceDraws hs.registers⟩

/-- RUN: the acceptance draws a latency, and after POLL the registers are those the command leaves. -/
theorem serves_runCmd {i : Instr} {a b : State} (hi : WellFormed i) (h : exec i (advanceDraws a) = .next b) :
    Serves (runCmd i) a b [] := by
  intro s rest hs
  obtain ⟨t, hstep, hr, hb, hpend, hscript, hreads, hengine⟩ := IdleAt.accepts (es := .poll :: rest) hs
  obtain ⟨u, hu, hrun⟩ := run_poll rfl hr hb hscript
  obtain ⟨-, -, -, -, hur, -, -, hureads, hub⟩ := noCommandChangesKeyDinOvr _ _ _ hu
  have hcommand : decodeWord t.pend = i := by rw [hpend, decodeEncodeRoundTrip i hi]
  rw [hcommand] at hu
  have hexec : exec i (engine t) = .next (engine u) := (exec_engine hu :)
  rw [hengine, h] at hexec
  cases hexec
  refine ⟨_, _, List.replicate t.wait ⟨statusOff, statusWord t⟩ ++ [⟨statusOff, statusWord u⟩],
    (run_succ_next hstep).trans hrun, ⟨hub, hur.trans hr, rfl, rfl⟩, ?_, ?_⟩
  · rw [hureads, hreads, List.append_assoc]
  · rw [dataBytes_append, dataBytes_replicate_status, dataBytes_status, List.append_nil]

/-- A loop over indices, through the registers `st 0` to `st n`. -/
theorem serves_range {f : Nat → Event} {st : Nat → State} {bs : Nat → List Byte} {n : Nat}
    (h : ∀ j < n, Serves [f j] (st j) (st (j + 1)) (bs j)) :
    Serves ((List.range n).map f) (st 0) (st n) ((List.range n).flatMap bs) := by
  induction n with
  | zero => exact serves_nil _
  | succ n ih =>
    rw [List.range_succ, List.map_append, List.flatMap_append]
    exact (ih fun j hj => h j (by omega)).append (by simpa using h n (by omega))

/-! ### WRBYTES and RDBYTES (R57) -/

/-- Word `j` of a byte sequence, in the lanes of R35. -/
def wordOf (bytes : List Byte) (j : Nat) : Word := ofLanes (SWord.ofBytesAt bytes j)

/-- The first `n` registers of a group overwritten, the others as they were. -/
def overwrite {m : Nat} (n : Nat) (v : Nat → Word) (old : Vector Word m) : Vector Word m :=
  Vector.ofFn fun i => if (i : Nat) < n then v i else old[i]

section
variable {m : Nat} (v : Nat → Word) (old : Vector Word m)

theorem overwrite_getElem (n : Nat) {i : Nat} (hi : i < m) :
    (overwrite n v old)[i] = if i < n then v i else old[i] := by
  simp [overwrite]

theorem overwrite_zero : overwrite 0 v old = old := by
  refine Vector.ext fun i hi => ?_
  rw [overwrite_getElem, if_neg (Nat.not_lt_zero i)]

theorem overwrite_succ {n : Nat} (hn : n < m) : overwrite (n + 1) v old = (overwrite n v old).set n (v n) := by
  refine Vector.ext fun i hi => ?_
  rw [overwrite_getElem, Vector.getElem_set, overwrite_getElem]
  obtain rfl | hne := eq_or_ne n i
  · rw [if_pos (Nat.lt_succ_self n), if_pos rfl]
  · rw [if_neg hne]
    exact if_congr (by omega) rfl rfl

end

/-- The registers of a group after WRBYTES. -/
def withBytes {m : Nat} (bytes : List Byte) (old : Vector Word m) : Vector Word m :=
  overwrite (wordCount bytes.length) (wordOf bytes) old

/-- Byte `i` of a group after WRBYTES is byte `i` of the sequence. -/
theorem withBytes_lane {m : Nat} {bytes : List Byte} (old : Vector Word m) {j k : Nat} (hj : j < m) (hk : k < 4)
    (hlen : 4 * j + k < bytes.length) :
    (withBytes bytes old)[j].extractLsb' (8 * k) 8 = bytes.getD (4 * j + k) 0 := by
  rw [← lanes_get _ hk, withBytes, overwrite_getElem, if_pos (by rw [wordCount]; omega), wordOf, lanes_ofLanes,
    ofBytesAt_get _ _ hk]

/-- WRBYTES to a group of `m` registers: `put` is the state with given contents of the group. -/
theorem serves_wrBytes {m : Nat} {group : BitVec 7} {reg : Fin m → Reg} {put : Vector Word m → State}
    (hreg : ∀ j : Fin m, regAt (group + BitVec.ofNat 7 (4 * j)) = reg j) (hd : ∀ j, (reg j).holdsData = true)
    (hput : ∀ v regs j, writeReg v (put regs) (reg j) = put (regs.set j v)) (old : Vector Word m)
    {bytes : List Byte} (hlen : wordCount bytes.length ≤ m) :
    Serves (wrBytes group bytes) (put old) (put (withBytes bytes old)) [] := by
  have hword (j : Nat) (hj : j < wordCount bytes.length) :
      Serves [wr (group + BitVec.ofNat 7 (4 * j)) (wordOf bytes j)] (put (overwrite j (wordOf bytes) old))
        (put (overwrite (j + 1) (wordOf bytes) old)) [] := by
    have hjm : j < m := by omega
    rw [overwrite_succ _ _ hjm]
    exact hput _ _ ⟨j, hjm⟩ ▸ serves_wr _ _ (hreg ⟨j, hjm⟩) (hd ⟨j, hjm⟩)
  have hnone : (List.range (wordCount bytes.length)).flatMap (fun _ => ([] : List Byte)) = [] := by simp
  have hloop := serves_range hword
  rw [hnone, overwrite_zero] at hloop
  exact hloop

theorem serves_wrBytes_key (a : State) {bytes : List Byte} (hlen : bytes.length ≤ 32) :
    Serves (wrBytes keyOff bytes) a { a with key := withBytes bytes a.key } [] :=
  serves_wrBytes (reg := .key) (put := fun k => { a with key := k })
    (fun j => by rw [← regAt_key, BitVec.ofNat_add]; rfl) (fun _ => rfl) (fun _ _ _ => rfl) a.key
    (by rw [wordCount]; omega)

theorem serves_wrBytes_din (a : State) {bytes : List Byte} (hlen : bytes.length ≤ 16) :
    Serves (wrBytes dinOff bytes) a { a with din := withBytes bytes a.din } [] :=
  serves_wrBytes (reg := .din) (put := fun d => { a with din := d })
    (fun j => by rw [← regAt_din, BitVec.ofNat_add]; rfl) (fun _ => rfl) (fun _ _ _ => rfl) a.din
    (by rw [wordCount]; omega)

/-- The raw key that a key command finds after WRBYTES KEY (R26, R86). -/
theorem rawKey_withBytes (a : State) {raw : List Byte} (hlen : raw.length ≤ 32) :
    rawKey raw.length { a with key := withBytes raw a.key } = raw := by
  refine List.ext_getElem (by rw [rawKey_length _ _ hlen]) fun i _ hi => ?_
  have hbyte : 4 * (i / 4) + i % 4 = i := by omega
  have hk : i % 4 < 4 := by omega
  simp only [rawKey, keyB, List.getElem_take]
  rw [← List.getD_eq_getElem _ 0, ← List.getD_eq_getElem _ 0 hi, ← hbyte,
    flatMap_lanes_getD _ (by simp; omega) hk, Vector.getElem_toList, withBytes_lane _ (by omega) hk (by omega)]

/-- The chunk that XORCHUNK finds after WRBYTES DIN (R27). -/
theorem dinB_withBytes (a : State) {bytes : List Byte} (hlen : bytes.length ≤ 16) {i : Nat} (hi : i < bytes.length) :
    (dinB { a with din := withBytes bytes a.din }).get i = bytes.getD i 0 := by
  have hbyte : 4 * (i / 4) + i % 4 = i := by omega
  have hk : i % 4 < 4 := by omega
  have hj : i / 4 < 4 := by omega
  rw [← hbyte]
  exact (blockOfRegs_get _ ⟨i / 4, hj⟩ hk).trans (withBytes_lane _ hj hk (by omega))

theorem flatMap_col_bytes (b : Block) {n : Nat} (hn : n ≤ 4) :
    (List.range n).flatMap (fun j => (b.col j).bytes) = b.bytes.take (4 * n) := by
  interval_cases n <;> rfl

theorem serves_rdBytes_dout (a : State) {n : Nat} (hn : n ≤ 16) :
    Serves (rdBytes doutOff n) a a ((doutB a).bytes.take (4 * wordCount n)) := by
  have hcount : wordCount n ≤ 4 := by rw [wordCount]; omega
  rw [← flatMap_col_bytes _ hcount]
  refine serves_range (st := fun _ => a) fun j hj => ?_
  have hreg : regAt (doutOff + BitVec.ofNat 7 (4 * j)) = .dout ⟨j, by omega⟩ := by
    rw [← regAt_dout, BitVec.ofNat_add]; rfl
  have hcol : (doutB a).col j = lanes (readReg a (.dout ⟨j, by omega⟩)) := blockOfRegs_col a.dout ⟨j, by omega⟩
  exact hcol ▸ serves_rd a hreg rfl

theorem serves_rdBytes_nonce (a : State) : Serves (rdBytes nonceOff 8) a a (nonceB a) :=
  (serves_rd a (off := nonceOff) (r := .nonceLo) rfl rfl).append
    (serves_rd a (off := nonceOff + 4) (r := .nonceHi) rfl rfl)

theorem serves_wrBytes_nonce (a : State) {nonce : List Byte} (hn : nonce.length = 8) :
    Serves (wrBytes nonceOff nonce) a { a with nonceLo := wordOf nonce 0, nonceHi := wordOf nonce 1 } [] := by
  have hevents : wrBytes nonceOff nonce = [wr nonceOff (wordOf nonce 0)] ++ [wr (nonceOff + 4) (wordOf nonce 1)] := by
    rw [wrBytes, hn]; rfl
  rw [hevents]
  exact (serves_wr a _ (r := .nonceLo) rfl rfl).append (serves_wr _ _ (r := .nonceHi) rfl rfl)

theorem ofBytesAt_bytes_of_length_8 : ∀ {l : List Byte}, l.length = 8 →
    (SWord.ofBytesAt l 0).bytes ++ (SWord.ofBytesAt l 1).bytes = l
  | [_, _, _, _, _, _, _, _], _ => rfl

/-! ### The phases of a call's sequence (R107, R111) -/

/-- A schedule is loaded under which Cipher is the one of `w`. -/
def Keyed (w : List SWord × Nat) (a : State) : Prop :=
  a.keyValid = true ∧ ∀ block, cipher block a.sched.toList a.nri.toNat = cipher block w.1 w.2

theorem Keyed.congr {w : List SWord × Nat} {a b : State} (h : Keyed w a) (hv : b.keyValid = a.keyValid)
    (hs : b.sched = a.sched) (hn : b.nri = a.nri) : Keyed w b := by
  rwa [Keyed, hv, hs, hn]

theorem keyed_complete_loadSchedule {raw : List Byte} (s : State)
    (hr : raw.length = 16 ∨ raw.length = 24 ∨ raw.length = 32) :
    Keyed (keyExpansion raw) (complete (loadSchedule (keyExpansion raw) s)) := by
  obtain ⟨hwords, -, hnri⟩ := complete_loadSchedule_keyExpansion s hr rfl
  refine ⟨rfl, fun block => ?_⟩
  rw [hnri, keyExpansion_rounds]
  exact cipher_congr (fun i hi => hwords i (by omega)) block

theorem serves_keyEvents (a : State) {raw : List Byte} (hr : raw.length = 16 ∨ raw.length = 24 ∨ raw.length = 32) :
    ∃ b, Serves (keyEvents raw) a b [] ∧ Keyed (callSchedule raw) b ∧ b.draws = a.draws + 1 := by
  have hraw := rawKey_withBytes a (raw := raw) (by omega)
  have hderived : (deriveKey raw).length = raw.length := deriveKey_length raw (by omega) (by omega)
  have hexec (s : State) (hs : rawKey raw.length s = raw) :
      exec (asmKeyderive (BitVec.ofNat 16 (8 * raw.length))) s =
        .next (complete (loadSchedule (callSchedule raw) s)) := by
    simp only [asmKeyderive, exec, execKeyderive, keyLength_ofNat hr, hs, callSchedule]
  exact ⟨_, (serves_wrBytes_key a (by omega)).append (serves_runCmd rfl (hexec _ hraw)),
    keyed_complete_loadSchedule _ (hderived ▸ hr), rfl⟩

/-- The engine is ready for chunk `b` of a message (R96, R107, R111). -/
structure Streaming (w : List SWord × Nat) (nonce : List Byte) (b : Nat) (a : State) : Prop where
  keyed : Keyed w a
  nonce : nonceB a = nonce
  ctr : ctr a = BitVec.ofNat 64 b

/-- RUN CTRSEED: its time is the draw after its own acceptance's (R94, logs 1 and 2). -/
theorem serves_runCtrseed {w : List SWord × Nat} {a : State} (ha : Keyed w a) :
    ∃ b, Serves (runCmd asmCtrseed) a b [] ∧ Streaming w (nonceOfTime (Config.timeMs (a.draws + 1))) 0 b := by
  refine ⟨_, serves_runCmd rfl rfl, ha.congr rfl rfl rfl, ?_, ?_⟩
  · rw [nonceB_complete, nonceB_advanceDraws, nonceB_seedNonce, advanceDraws_draws]
  · rw [ctr_complete, ctr_advanceDraws, ctr_seedNonce]; rfl

/-- The host writes a nonce and sets CTR to 0 (R111). -/
theorem serves_nonceEvents {w : List SWord × Nat} {nonce : List Byte} {a : State} (ha : Keyed w a)
    (hn : nonce.length = 8) :
    ∃ b, Serves (wrBytes nonceOff nonce ++ [wr ctrLoOff 0, wr ctrHiOff 0]) a b [] ∧ Streaming w nonce 0 b := by
  have hlo := serves_wr { a with nonceLo := wordOf nonce 0, nonceHi := wordOf nonce 1 } 0 (off := ctrLoOff)
    (r := .ctrLo) rfl rfl
  have hhi := hlo.append (serves_wr _ 0 (off := ctrHiOff) (r := .ctrHi) rfl rfl)
  refine ⟨_, (serves_wrBytes_nonce a hn).append hhi, ha.congr rfl rfl rfl, ?_, ?_⟩
  · simp [nonceB, writeReg, wordOf, ofBytesAt_bytes_of_length_8 hn]
  · simp [ctr, writeReg]

/-- The first bytes of XORCHUNK's output block are the chunk XORed with as many keystream bytes (R95, R96). -/
theorem xorBlock_bytes_take (w : List SWord × Nat) (nonce : List Byte) (b : Nat) {block : Block} {d : List Byte}
    (hd : d.length ≤ 16) (h : ∀ i, i < d.length → block.get i = d.getD i 0) :
    (xorBlock block (keystream nonce (BitVec.ofNat 64 b) w.1 w.2) d.length).bytes.take d.length =
      xorChunk w nonce b d := by
  refine List.ext_getElem ?_ fun i hi hi' => ?_
  · rw [xorChunk_length _ _ _ hd, List.length_take, block_bytes_length, min_eq_left hd]
  · have hid : i < d.length := by rwa [xorChunk_length _ _ _ hd] at hi'
    simp only [xorChunk, List.getElem_take, List.getElem_zipWith]
    rw [← List.getD_eq_getElem _ 0, ← List.getD_eq_getElem _ 0 hid, ← List.getD_eq_getElem _ 0,
      block_bytes_getD _ _ (by omega), block_bytes_getD _ _ (by omega), xorBlock_get _ _ _ (by omega), if_pos hid,
      h i hid]

/-- XORCHUNK on a ready engine: its output block, and the engine is ready for the next chunk (R95, R97). -/
theorem Streaming.exec_asmXorchunk {w : List SWord × Nat} {nonce : List Byte} {b n : Nat} {a : State}
    (ha : Streaming w nonce b a) (lo : 1 ≤ n) (hi : n ≤ 16) :
    ∃ c, exec (asmXorchunk (BitVec.ofNat 5 n)) (advanceDraws a) = .next c ∧ Streaming w nonce (b + 1) c ∧
      doutB c = xorBlock (dinB a) (keystream nonce (BitVec.ofNat 64 b) w.1 w.2) n := by
  obtain ⟨hkeyed, hnonce, hctr⟩ := ha
  have hlen : (BitVec.ofNat 5 n).toNat = n := by rw [BitVec.toNat_ofNat, Nat.mod_eq_of_lt (by omega)]
  refine ⟨_, execXorchunk_of_keyValid (lenAccepted_iff.mpr (by omega)) hkeyed.1,
    ⟨hkeyed.congr rfl rfl rfl, ?_, ?_⟩, ?_⟩
  · simpa using hnonce
  · rw [ctr_complete, ctr_setCtr, ctr_advanceDraws, hctr, BitVec.ofNat_add]; rfl
  · rw [doutB_complete, doutB_setCtr, doutB_putDout, dinB_advanceDraws, nonceB_advanceDraws, ctr_advanceDraws, hnonce,
      hctr, hlen, keystream, keystream, ← hkeyed.2]
    rfl

/-- One chunk: the host reads whole words whose leading bytes are the chunk's result, and CTR moves on. -/
theorem serves_chunkEvents {w : List SWord × Nat} {nonce : List Byte} {b : Nat} {a : State}
    (ha : Streaming w nonce b a) {d : List Byte} (lo : 1 ≤ d.length) (hi : d.length ≤ 16) :
    ∃ c bs, Serves (chunkEvents d) a c bs ∧ Streaming w nonce (b + 1) c ∧
      bs.length = 4 * wordCount d.length ∧ bs.take d.length = xorChunk w nonce b d := by
  have hcount : d.length ≤ 4 * wordCount d.length ∧ 4 * wordCount d.length ≤ 16 := by rw [wordCount]; omega
  have ha' : Streaming w nonce b { a with din := withBytes d a.din } := ⟨ha.keyed.congr rfl rfl rfl, ha.nonce, ha.ctr⟩
  obtain ⟨c, hexec, hc, hout⟩ := ha'.exec_asmXorchunk lo hi
  refine ⟨c, _, ((serves_wrBytes_din a hi).append (serves_runCmd rfl hexec)).append (serves_rdBytes_dout c hi), hc,
    ?_, ?_⟩
  · simpa using hcount.2
  · rw [List.nil_append, List.nil_append, List.take_take, min_eq_left hcount.1, hout,
      xorBlock_bytes_take w nonce b hi fun i => dinB_withBytes a hi]

/-- The host keeps the first `n` of the bytes it has read in whole words (R57). -/
theorem splitReply_append {n : Nat} {bs : List Byte} (ns : List Nat) (rest : List Byte)
    (h : bs.length = 4 * wordCount n) : splitReply (n :: ns) (bs ++ rest) = bs.take n :: splitReply ns rest := by
  have hn : n ≤ bs.length := by rw [h, wordCount]; omega
  rw [splitReply, List.take_append_of_le_length hn, ← h, List.drop_left]

/-- All chunks in order, from any block index on. -/
theorem serves_chunks {w : List SWord × Nat} {nonce : List Byte} {chunks : List (List Byte)} {b : Nat} {a : State}
    (ha : Streaming w nonce b a) (h : ChunkSized chunks) :
    ∃ c bs, Serves (chunks.flatMap chunkEvents) a c bs ∧
      splitReply (chunks.map List.length) bs = (chunks.zipIdx b).map fun cb => xorChunk w nonce cb.2 cb.1 := by
  induction chunks generalizing a b with
  | nil => exact ⟨a, [], serves_nil a, rfl⟩
  | cons d ds ih =>
    obtain ⟨⟨lo, hi⟩, hds⟩ := List.forall_mem_cons.mp h
    obtain ⟨a', bs, hd, ha', hlen, hout⟩ := serves_chunkEvents ha lo hi
    obtain ⟨c, bs', hrest, hout'⟩ := ih ha' hds
    refine ⟨c, bs ++ bs', hd.append hrest, ?_⟩
    rw [List.map_cons, splitReply_append _ _ hlen, hout, hout', List.zipIdx_cons, List.map_cons]

/-! ### The two sequences (R107, R111) -/

theorem serves_encryptEvents (a : State) {raw : List Byte} (p : List Byte)
    (hr : raw.length = 16 ∨ raw.length = 24 ∨ raw.length = 32) :
    ∃ b bs, Serves (encryptEvents raw p) a b (nonceOfTime (Config.timeMs (a.draws + 2)) ++ bs) ∧
      splitReply ((chunksOf p).map List.length) bs =
        xorChunks (callSchedule raw) (nonceOfTime (Config.timeMs (a.draws + 2))) (chunksOf p) := by
  obtain ⟨a₁, hkey, hkeyed, hdraws⟩ := serves_keyEvents a hr
  obtain ⟨a₂, hseed, hready⟩ := serves_runCtrseed hkeyed
  have hnonce := serves_rdBytes_nonce a₂
  rw [hready.nonce] at hnonce
  obtain ⟨b, bs, hchunks, hout⟩ := serves_chunks hready (chunkSized_chunksOf p)
  rw [hdraws] at hnonce hout
  exact ⟨b, bs, ((hkey.append hseed).append hnonce).append hchunks, hout⟩

theorem serves_decryptEvents (a : State) {raw : List Byte} {c : Text}
    (hr : raw.length = 16 ∨ raw.length = 24 ∨ raw.length = 32) (hc : cipherTextOk c = true) :
    ∃ b bs, Serves (decryptEvents raw c) a b bs ∧
      splitReply ((cipherChunks c).map List.length) bs =
        xorChunks (callSchedule raw) (cipherNonce c) (cipherChunks c) := by
  obtain ⟨hn, hsized⟩ := cipherTextOk_sizes hc
  obtain ⟨a₁, hkey, hkeyed, -⟩ := serves_keyEvents a hr
  obtain ⟨a₂, hnonce, hready⟩ := serves_nonceEvents hkeyed hn
  obtain ⟨b, bs, hchunks, hout⟩ := serves_chunks hready hsized
  refine ⟨b, bs, ?_, hout⟩
  rw [decryptEvents, List.append_assoc (keyEvents raw)]
  exact (hkey.append hnonce).append hchunks

/-- The run of a whole sequence ends. -/
theorem Serves.run_ends {es : List Event} {s b : State} {bs : List Byte} (h : Serves es (engine s) b bs)
    (hb : s.busy = false) (hr : s.rst = false) (hs : s.script = es) :
    ∃ (n : Nat) (u : State) (new : List HostRead), Host.Core.run core n s = .next u ∧ runEnded u = true ∧
      u.script = [] ∧ u.reads = s.reads ++ new ∧ dataBytes new = bs := by
  obtain ⟨n, u, new, hrun, hu, hreads, hbs⟩ := h s [] ⟨hb, hr, rfl, by rw [hs, List.append_nil]⟩
  exact ⟨n, u, new, hrun, by simp [runEnded, hu.script, hu.busy], hu.script, hreads, hbs⟩

theorem keyTextBytes_length {bits : Int} {k : Text} (hbits : bits = 128 ∨ bits = 192 ∨ bits = 256)
    (hk : bits.toNat / 8 ≤ k.length) :
    (keyTextBytes (bits.toNat / 8) k).length = 16 ∨ (keyTextBytes (bits.toNat / 8) k).length = 24 ∨
      (keyTextBytes (bits.toNat / 8) k).length = 32 := by
  rw [keyTextBytes, textBytes, List.length_map, List.length_take, min_eq_left hk]
  omega

/-- Settles O57: the sequence reads the nonce of CTRSEED's time, then each chunk's result in whole words. -/
theorem encryptAgreesWithHostSequence : Obligations.EncryptAgreesWithHostSequence := by
  intro s p k bits hb hr hbits hk hkc hp hs
  obtain ⟨b, bs, hserves, hout⟩ := serves_encryptEvents (engine s) (textBytes p) (keyTextBytes_length hbits hk)
  obtain ⟨n, u, new, hrun, hend, hscript, hreads, hbs⟩ := hserves.run_ends hb hr hs
  refine ⟨n, u, new, hrun, hend, hscript, hreads, ?_⟩
  rw [encrypt_of_accepted _ (bitsAccepted_iff.mpr hbits) (keyTextOk_iff.mpr ⟨hk, hkc⟩) (byteCodes_iff.mpr hp),
    encryptReply, hbs, List.take_left' (nonceOfTime_length _), List.drop_left' (nonceOfTime_length _), hout]
  rfl

/-- Settles O58: the sequence reads each chunk's result in whole words, under the nonce it has written. -/
theorem decryptAgreesWithHostSequence : Obligations.DecryptAgreesWithHostSequence := by
  intro s c k bits hb hr hbits hk hkc hc hs
  obtain ⟨b, bs, hserves, hout⟩ := serves_decryptEvents (engine s) (keyTextBytes_length hbits hk) hc
  obtain ⟨n, u, new, hrun, hend, hscript, hreads, hbs⟩ := hserves.run_ends hb hr hs
  refine ⟨n, u, new, hrun, hend, hscript, hreads, ?_⟩
  rw [decrypt_of_accepted (bitsAccepted_iff.mpr hbits) (keyTextOk_iff.mpr ⟨hk, hkc⟩) hc, decryptReply, hbs, hout]
  rfl

end Sys2Proof.Machine

/-!
PROOFS. The result codes: what a command that is turned down leaves, and which code each command word reports
(spec 60_exceptions.md).
-/

namespace Sys2Proof.Machine

/-! ### The effect of an error (R123) -/

/-- Settles O21: of the ways a command can end, only `endError` leaves a code other than OK. -/
theorem errorChangesNothingElse : Obligations.ErrorChangesNothingElse := by
  intro i s t h herr
  cases exec_performed h with
  | error => rfl
  | nop | key | block | seed | stream => exact absurd rfl herr

/-! ### The operand checks (R120, R122) -/

/-- The values of the field BITS that a key command accepts (R50). -/
abbrev KeyBits (bits : BitVec 16) : Prop := bits.toNat = 128 ∨ bits.toNat = 192 ∨ bits.toNat = 256

theorem keyLength_isSome_iff {bits : BitVec 16} : (keyLength bits).isSome = true ↔ KeyBits bits := by
  simp [keyLength, ← BitVec.toNat_inj]

theorem keyLength_eq_none_iff {bits : BitVec 16} : keyLength bits = none ↔ ¬ KeyBits bits := by
  rw [← keyLength_isSome_iff, Option.not_isSome_iff_eq_none]

theorem lenAccepted_eq_false_iff {len : BitVec 5} :
    lenAccepted len = false ↔ ¬ (1 ≤ len.toNat ∧ len.toNat ≤ 16) := by
  rw [← lenAccepted_iff, Bool.not_eq_true]

theorem keyCommands_of_bits_rejected {bits : BitVec 16} (s : State) (h : ¬ KeyBits bits) :
    execKeyexp bits s = .next (endError .errBits s) ∧ execKeyderive bits s = .next (endError .errBits s) := by
  rw [execKeyexp, execKeyderive, keyLength_eq_none_iff.mpr h]
  exact ⟨rfl, rfl⟩

/-- Settles O16: both key commands turn down a BITS that is not accepted in the same way. -/
theorem keyCommandsRejectOtherBits : Obligations.KeyCommandsRejectOtherBits := by
  intro len rsvd bits s h128 h192 h256
  exact keyCommands_of_bits_rejected s (not_or.mpr ⟨h128, not_or.mpr ⟨h192, h256⟩⟩)

/-- Settles O20: LEN is checked before KEYVALID. -/
theorem xorchunkErrors : Obligations.XorchunkErrors := by
  intro len rsvd bits s
  constructor
  · exact fun hlen => execXorchunk_of_len_rejected s (lenAccepted_eq_false_iff.mpr (by omega))
  · exact fun hlen hv => execXorchunk_of_no_key (lenAccepted_iff.mpr hlen) hv

/-! ### The code that a command word reports (R118, R124) -/

/-- The command ends in a next state whose ERR shows the number `n` (R118). -/
def Reports (o : Host.Outcome State Fault Refusal) (n : BitVec 4) : Prop := ∃ t, o = .next t ∧ t.err.number = n

theorem reports_complete (s : State) : Reports (.next (complete s)) 0 := ⟨_, rfl, rfl⟩

theorem reports_endError (c : ResultCode) (s : State) : Reports (.next (endError c s)) c.number := ⟨_, rfl, rfl⟩

theorem keyCommands_report (bits : BitVec 16) (s : State) :
    Reports (execKeyexp bits s) (if KeyBits bits then 0 else 1) ∧
    Reports (execKeyderive bits s) (if KeyBits bits then 0 else 1) := by
  split
  case isTrue hbits =>
    obtain ⟨n, hn⟩ := Option.isSome_iff_exists.mp (keyLength_isSome_iff.mpr hbits)
    rw [execKeyexp, execKeyderive, hn]
    exact ⟨reports_complete _, reports_complete _⟩
  case isFalse hbits =>
    obtain ⟨hexp, hderive⟩ := keyCommands_of_bits_rejected s hbits
    rw [hexp, hderive]
    exact ⟨reports_endError _ s, reports_endError _ s⟩

theorem execEncblk_reports (s : State) : Reports (execEncblk s) (if s.keyValid = false then 2 else 0) := by
  split
  case isTrue hv => rw [execEncblk_of_no_key hv]; exact reports_endError _ s
  case isFalse hv => rw [execEncblk_of_keyValid (eq_true_of_ne_false hv)]; exact reports_complete _

theorem execXorchunk_reports (len : BitVec 5) (s : State) :
    Reports (execXorchunk len s)
      (if ¬ (1 ≤ len.toNat ∧ len.toNat ≤ 16) then 3 else if s.keyValid = false then 2 else 0) := by
  split
  case isTrue hlen =>
    rw [execXorchunk_of_len_rejected s (lenAccepted_eq_false_iff.mpr hlen)]; exact reports_endError _ s
  case isFalse hlen =>
    have hlen : lenAccepted len = true := lenAccepted_iff.mpr (not_not.mp hlen)
    split
    case isTrue hv => rw [execXorchunk_of_no_key hlen hv]; exact reports_endError _ s
    case isFalse hv => rw [execXorchunk_of_keyValid hlen (eq_true_of_ne_false hv)]; exact reports_complete _

/-- Settles O22: a reserved OP reports ERR_OP, and in each of the six rows below the word reports what the row's
command does with its fields. -/
theorem resultCodeCauses : Obligations.ResultCodeCauses := by
  intro w s
  change Reports (exec (decodeWord w) s) _
  by_cases hres : 6 ≤ (fieldOp w).toNat
  · rw [if_pos hres, exec_of_six_le_opcode (by rwa [opcode_decodeWord])]
    exact reports_endError _ s
  · have hop : (fieldOp w).toNat = 0 ∨ (fieldOp w).toNat = 1 ∨ (fieldOp w).toNat = 2 ∨ (fieldOp w).toNat = 3 ∨
        (fieldOp w).toNat = 4 ∨ (fieldOp w).toNat = 5 := by omega
    obtain h | h | h | h | h | h := hop <;> simp only [decodeWord, decodeFields, h]
    · exact reports_complete s
    · exact (keyCommands_report (fieldBits w) s).1
    · exact (keyCommands_report (fieldBits w) s).2
    · simpa [exec] using execEncblk_reports s
    · exact reports_complete _
    · simpa [exec] using execXorchunk_reports (fieldLen w) s

end Sys2Proof.Machine

/-!
PROOFS. Reset, the busy protocol and the end of a run: what the reset input does to the block, POLL, the host that never
overruns, and what the observation of a run shows (spec 70_reset_and_hazards.md).
-/

namespace Sys2Proof.Machine

/-! ### The reset values (R131) -/

theorem readReg_reset (r : Reg) : readReg State.reset r = 0 := by
  cases r with
  | cmd | status | ctrLo | ctrHi | nonceLo | nonceHi | key | reserved => rfl
  | din j => exact Vector.getElem_replicate j.isLt
  | dout j => exact Vector.getElem_replicate j.isLt

/-- Settles O48: every register reads 0 at reset, and the internal state is its reset values, one by one. -/
theorem resetValues : Obligations.ResetValues :=
  ⟨fun off _ => readReg_reset (regAt off), reset_busy, reset_keyValid, reset_ovr, reset_err, reset_nri, reset_outLen,
    rfl, fun j => Vector.getElem_replicate j.isLt, fun j => Vector.getElem_replicate j.isLt⟩

/-- Settles O50: the results are legal at reset, and the reset input is released. -/
theorem resetMeetsTheInvariant : Obligations.ResetMeetsTheInvariant :=
  machineInv_iff.mpr ⟨resultsLegal_reset, resetHolds_of_rst_false reset_rst⟩

/-! ### The reset input (R131, R132) -/

theorem hostRead_of_rst {s : State} (h : s.rst = true) (off : BitVec 7) : hostRead off s = 0 := if_pos h

theorem hostWrite_of_rst {s : State} (h : s.rst = true) (off : BitVec 7) (v : Word) : hostWrite off v s = s :=
  if_pos h

/-- Settles O49: the step takes the assertion of reset; while reset is asserted an access moves only the events to come
and the reads. -/
theorem resetDiscardsThePendingCommand : Obligations.ResetDiscardsThePendingCommand := by
  refine ⟨fun s es hd hs => ?_, fun s off v hr ha => ⟨?_, ?_⟩⟩
  · rw [step_of_script_cons hd hs]
    simp [takeEvent, dropEvent, assertReset, hs]
  · rw [takeEvent_write v s ha, hostWrite_of_rst hr]; rfl
  · rw [takeEvent_read s ha, hostRead_of_rst hr]; rfl

/-! ### POLL (R57, R138) -/

/-- Settles O10, by `run_poll`'s induction on the intervals left. -/
theorem pollTerminates : Obligations.PollTerminates := fun _ _ hr hb hs => run_poll rfl hr hb hs

/-! ### The host that keeps to the busy protocol (R20, R37, R135) -/

/-- The state of a run whose host keeps to the busy protocol: `b` says whether a command may be pending. -/
structure KeepsProtocol (b : Bool) (s : State) : Prop where
  script : conforming b s.script = true
  busy : s.busy = true → b = true
  rst : s.rst = true → s.busy = false
  ovr : s.ovr = false

theorem KeepsProtocol.tick {b : Bool} {s : State} (h : KeepsProtocol b s) : KeepsProtocol b (tick s) :=
  ⟨h.script, h.busy, h.rst, h.ovr⟩

/-- Only a write of CMD sets BUSY, and no write of a register moves OVR or the events to come (R15, R39). -/
theorem writeReg_protocol (v : Word) (s : State) (r : Reg) :
    (writeReg v s r).busy = (s.busy || r == .cmd) ∧ (writeReg v s r).ovr = s.ovr ∧
      (writeReg v s r).script = s.script := by
  cases r with
  | cmd => exact ⟨(Bool.or_true _).symm, rfl, rfl⟩
  | status | ctrLo | ctrHi | nonceLo | nonceHi | key | din | dout | reserved =>
    exact ⟨(Bool.or_false _).symm, rfl, rfl⟩

/-- A write that the protocol allows is never dropped: with a command pending it can only be one of STATUS. -/
theorem KeepsProtocol.write {b : Bool} {s : State} {bytes : Nat} {off : BitVec 7} {v : Word} {es : List Event}
    (h : KeepsProtocol b s) (hs : s.script = .write bytes off v :: es) :
    ∃ t, takeEvent (.write bytes off v) s = .next t ∧ KeepsProtocol (b || regAt off == .cmd) t := by
  have hscript := h.script
  simp only [hs, conforming, Bool.and_eq_true] at hscript
  obtain ⟨⟨hok, hallowed⟩, hes⟩ := hscript
  refine ⟨dropEvent (hostWrite off v s), by rw [takeEvent, if_pos hok], ?_⟩
  obtain rfl : s.script.drop 1 = es := by rw [hs, List.drop_one, List.tail_cons]
  have hbusy : s.busy = true → (b || regAt off == .cmd) = true := fun hb => by rw [h.busy hb, Bool.true_or]
  obtain ⟨-, hw⟩ | ⟨-, -, hw⟩ | ⟨-, hreg, hb, -⟩ | ⟨hr, -, hb, hw⟩ := hostWrite_cases off v s
  · rw [hw]
    exact ⟨hes, hbusy, h.rst, h.ovr⟩
  · rw [hw, writeStatus_eq]
    exact ⟨hes, hbusy, h.rst, by simp [h.ovr]⟩
  · simp [h.busy hb, hreg] at hallowed
  · obtain ⟨hb', hovr, hscript⟩ := writeReg_protocol v s (regAt off)
    rw [hw]
    refine ⟨?_, ?_, ?_, ?_⟩
    · rw [dropEvent_script, hscript, hes]
    · rw [dropEvent_busy, hb', hb, Bool.false_or]
      exact fun hcmd => by rw [hcmd, Bool.or_true]
    · simp [hr]
    · exact hovr.trans h.ovr

/-- POLL waits while BUSY = 1, and when it goes on no command is pending. -/
theorem KeepsProtocol.poll {b : Bool} {s : State} {es : List Event} (h : KeepsProtocol b s)
    (hs : s.script = .poll :: es) : ∃ b', KeepsProtocol b' (pollOnce s) := by
  have hes : conforming false (s.script.drop 1) = true := by simpa [hs, conforming] using h.script
  cases hb : s.busy with
  | true =>
    have hr : s.rst = false := eq_false_of_ne_true fun hr => by simp [h.rst hr] at hb
    rw [pollOnce_of_busy hr hb]
    exact ⟨b, h.script, h.busy, h.rst, h.ovr⟩
  | false =>
    have hbit : (hostRead statusOff s).getLsbD 0 = false := by
      cases hr : s.rst with
      | true => rw [hostRead_of_rst hr]; rfl
      | false => rw [hostRead_status hr, statusWord_busy, hb]
    rw [pollOnce, if_neg (ne_true_of_eq_false hbit)]
    exact ⟨false, hes, fun hb' => absurd hb' (by simp [hb]), h.rst, h.ovr⟩

/-- No event of a conforming host is a bus error, and every one keeps to the protocol. -/
theorem KeepsProtocol.takeEvent {b : Bool} {e : Event} {s : State} {es : List Event} (h : KeepsProtocol b s)
    (hs : s.script = e :: es) : ∃ t b', takeEvent e s = .next t ∧ KeepsProtocol b' t := by
  have hscript := h.script
  rw [hs] at hscript
  obtain rfl : s.script.drop 1 = es := by rw [hs, List.drop_one, List.tail_cons]
  cases e with
  | read bytes off =>
    obtain ⟨hok, hes⟩ : accessOk bytes off = true ∧ conforming b (s.script.drop 1) = true := by
      simpa [conforming] using hscript
    exact ⟨_, b, if_pos hok, hes, h.busy, h.rst, h.ovr⟩
  | write bytes off v =>
    obtain ⟨t, ht, h'⟩ := h.write hs
    exact ⟨t, _, ht, h'⟩
  | poll =>
    obtain ⟨b', h'⟩ := h.poll hs
    exact ⟨_, b', rfl, h'⟩
  | idle => exact ⟨_, b, rfl, hscript, h.busy, h.rst, h.ovr⟩
  | resetOn => exact ⟨_, false, rfl, hscript, nofun, fun _ => rfl, rfl⟩
  | resetOff => exact ⟨_, b, rfl, hscript, h.busy, nofun, h.ovr⟩

/-- Every step of a conforming host's run answers a next state that keeps to the protocol. -/
theorem KeepsProtocol.step {b : Bool} {s : State} (h : KeepsProtocol b s) :
    ∃ t b', step s = .next t ∧ KeepsProtocol b' t := by
  cases hd : performDue s with
  | true =>
    obtain ⟨t, ht⟩ := exec_total (decodeWord s.pend) s
    obtain ⟨-, -, hovr, -, -, -, hscript, -, hbusy⟩ := noCommandChangesKeyDinOvr _ s t ht
    exact ⟨t, b, (step_of_performDue hd).trans ht, hscript ▸ h.script, by simp [hbusy], fun _ => hbusy,
      hovr.trans h.ovr⟩
  | false =>
    cases hs : s.script with
    | nil => exact ⟨Machine.tick s, b, by rw [step_of_not_performDue hd, hostTurn, tick_script, hs], h.tick⟩
    | cons e es =>
      rw [step_of_script_cons hd hs]
      exact h.tick.takeEvent hs

/-- Settles O11: `KeepsProtocol` goes with the run, step by step, and it says OVR = 0. -/
theorem conformingHostNeverOverruns : Obligations.ConformingHostNeverOverruns := by
  intro k s b hscript hbusy hrst hovr
  have h : KeepsProtocol b s := ⟨hscript, hbusy, hrst, hovr⟩
  clear hscript hbusy hrst hovr
  induction k generalizing s b with
  | zero => exact ⟨s, rfl, h.ovr⟩
  | succ k ih =>
    obtain ⟨t, b', ht, h'⟩ := h.step
    rw [run_succ_next ht]
    exact ih t b' h'

/-! ### The end of a run (R142) -/

theorem hostAccess_eq_false_iff {e : Event} :
    hostAccess e = false ↔ e = .idle ∨ e = .resetOn ∨ e = .resetOff := by
  cases e <;> simp [hostAccess]

theorem runEnded_iff {s : State} :
    runEnded s = true ↔ s.busy = false ∧ ∀ e ∈ s.script, e = .idle ∨ e = .resetOn ∨ e = .resetOff := by
  simp [runEnded, hostAccess_eq_false_iff, and_comm]

/-- Settles O59: what is still to come of an ended run is intervals without an access and edges of the reset input. -/
theorem endedRunStaysEnded : Obligations.EndedRunStaysEnded := by
  refine ⟨fun s => runEnded_iff, fun s hend => ?_⟩
  obtain ⟨hb, hall⟩ := runEnded_iff.mp hend
  have hd : performDue s = false := performDue_eq_false_iff.mpr (.inr (.inl hb))
  cases hs : s.script with
  | nil => exact ⟨tick s, by rw [step_of_not_performDue hd, hostTurn, tick_script, hs], hend, rfl, fun _ => rfl⟩
  | cons e es =>
    rw [hs, List.forall_mem_cons] at hall
    obtain ⟨he, hes⟩ := hall
    have ended {t : State} (hbt : t.busy = false) (hst : t.script = s.script.drop 1) : runEnded t = true :=
      runEnded_iff.mpr ⟨hbt, by rwa [hst, hs, List.drop_one, List.tail_cons]⟩
    rw [step_of_script_cons hd hs]
    obtain rfl | rfl | rfl := he
    · exact ⟨_, rfl, ended hb rfl, rfl, fun _ => rfl⟩
    · exact ⟨_, rfl, ended rfl rfl, rfl, fun hne => absurd rfl hne⟩
    · exact ⟨_, rfl, ended hb rfl, rfl, fun _ => rfl⟩

/-! ### What the observation shows (R13, R142) -/

theorem ResultCode.number_injective : Function.Injective ResultCode.number := by
  intro c d
  cases c <;> cases d <;> decide

/-- Every field of STATUS can be read off it (R17). -/
theorem fields_of_statusWord_eq {s t : State} (h : statusWord s = statusWord t) :
    s.outLen = t.outLen ∧ s.nri = t.nri ∧ s.err = t.err ∧ s.ovr = t.ovr ∧ s.keyValid = t.keyValid ∧
      s.busy = t.busy := by
  refine ⟨?_, ?_, ResultCode.number_injective ?_, ?_, ?_, ?_⟩
  · simpa only [statusWord_outLen] using congrArg (·.extractLsb' 16 5) h
  · simpa only [statusWord_nri] using congrArg (·.extractLsb' 8 4) h
  · simpa only [statusWord_err] using congrArg (·.extractLsb' 4 4) h
  · simpa only [statusWord_ovr] using congrArg (·.getLsbD 2) h
  · simpa only [statusWord_keyValid] using congrArg (·.getLsbD 1) h
  · simpa only [statusWord_busy] using congrArg (·.getLsbD 0) h

/-- The observation leaves open PEND and the environment's fields but the reads, and nothing else. -/
theorem eq_of_observation_eq {s t : State} (h : observation s = observation t) :
    t = { s with pend := t.pend, rst := t.rst, wait := t.wait, draws := t.draws, script := t.script } := by
  obtain ⟨hreads, hstatus, hctrLo, hctrHi, hnonceLo, hnonceHi, hkey, hdin, hdout, hsched, -⟩ :=
    Observation.mk.inj h
  obtain ⟨hlen, hnri, herr, hovr, hkv, hb⟩ := fields_of_statusWord_eq hstatus
  rw [hreads, hctrLo, hctrHi, hnonceLo, hnonceHi, hkey, hdin, hdout, hsched, hlen, hnri, herr, hovr, hkv, hb]

/-- No register of the window shows PEND or the environment's fields. -/
theorem readReg_congr_environment (s : State) (pend : Word) (rst : Bool) (wait draws : Nat) (script : List Event)
    (r : Reg) :
    readReg { s with pend := pend, rst := rst, wait := wait, draws := draws, script := script } r = readReg s r := by
  cases r <;> rfl

/-- Settles O60: STATUS gives back its fields, and the other registers stand in the observation themselves. -/
theorem observationFixesTheRegisters : Obligations.ObservationFixesTheRegisters := by
  intro s t h
  have heq := eq_of_observation_eq h
  refine ⟨heq, fun off => ?_⟩
  rw [heq]
  exact readReg_congr_environment s _ _ _ _ _ (regAt off)

end Sys2Proof.Machine

/-!
PROOFS. The spec's own command words, and the frame of each command over the whole window: which registers a perform
step may move (spec 30_encoding.md, 41_key_schedule.md to 45_host_protocol.md).
-/

namespace Sys2Proof.Machine

/-! ### The spec's words (R54, R56) -/

/-- Settles O1: the fields of each word are evaluated. -/
theorem specWordsDecode : Obligations.SpecWordsDecode :=
  ⟨rfl, rfl, rfl, rfl, rfl, rfl, rfl, rfl⟩

/-! ### The registers a command may move (R72, R82, R89, R94, R95, R100) -/

/-- A perform step of a command with this OP may change what the register reads. -/
def mayMove (op : BitVec 4) : Reg → Bool
  | .status => true
  | .dout _ => op == 0x3 || op == 0x5
  | .ctrLo | .ctrHi => op == 0x4 || op == 0x5
  | .nonceLo | .nonceHi => op == 0x4
  | .cmd | .key _ | .din _ | .reserved => false

/-- A perform step keeps what every other register reads. -/
theorem Performed.readReg_eq {i : Instr} {s t : State} (h : Performed i s t) {r : Reg}
    (hr : mayMove (opcode i) r = false) : readReg t r = readReg s r := by
  cases h with
  | nop | error | key =>
    cases r with
    | status => cases hr
    | cmd | ctrLo | ctrHi | nonceLo | nonceHi | key | din | dout | reserved => rfl
  | block hi =>
    rw [hi] at hr
    cases r with
    | status | dout => cases hr
    | cmd | ctrLo | ctrHi | nonceLo | nonceHi | key | din | reserved => rfl
  | seed hi =>
    rw [hi] at hr
    cases r with
    | status | ctrLo | ctrHi | nonceLo | nonceHi => cases hr
    | cmd | key | din | dout | reserved => rfl
  | stream hi =>
    rw [hi] at hr
    cases r with
    | status | ctrLo | ctrHi | dout => cases hr
    | cmd | nonceLo | nonceHi | key | din | reserved => rfl

/-- `Performed.readReg_eq` at an offset of the window, for a command whose OP is known. -/
theorem busRead_of_exec {i : Instr} {op : BitVec 4} {s t : State} (h : exec i s = .next t) (hop : opcode i = op)
    {off : BitVec 7} (hoff : mayMove op (regAt off) = false) : busRead off t = busRead off s :=
  (exec_performed h).readReg_eq (by rwa [hop])

/-- CTRSEED alone draws a time value (R94). -/
theorem Performed.draws_eq {i : Instr} {s t : State} (h : Performed i s t) (hi : opcode i ≠ 0x4) :
    t.draws = s.draws := by
  cases h with
  | seed hseed => exact absurd hseed hi
  | nop | error | key | block | stream => rfl

theorem Performed.key_eq {i : Instr} {s t : State} (h : Performed i s t) : t.key = s.key := by
  cases h with
  | nop | error | key | block | seed | stream => rfl

/-! ### The commands without an output (R53, R72, R89, R100) -/

/-- NOP and the key commands move STATUS alone. -/
theorem mayMove_of_op_lt_three {op : BitVec 4} (hop : op = 0x0 ∨ op = 0x1 ∨ op = 0x2) {off : BitVec 7}
    (hoff : off ≠ 0x04) : mayMove op (regAt off) = false := by
  obtain rfl | rfl | rfl := hop <;> revert off <;> decide

theorem Performed.frame_of_op_lt_three {i : Instr} {s t : State} (h : Performed i s t)
    (hi : opcode i = 0x0 ∨ opcode i = 0x1 ∨ opcode i = 0x2) :
    (∀ off : BitVec 7, off ≠ 0x04 → busRead off t = busRead off s) ∧ t.key = s.key ∧ t.draws = s.draws := by
  have hseed : opcode i ≠ 0x4 := by obtain hi | hi | hi := hi <;> rw [hi] <;> decide
  exact ⟨fun off hoff => h.readReg_eq (mayMove_of_op_lt_three hi hoff), h.key_eq, h.draws_eq hseed⟩

/-- Settles O24: NOP and the key commands by their OP; a reserved command is turned down, which `Performed` allows to
every command, so the OP it carries plays no part. -/
theorem frameOfNopKeyAndReserved : Obligations.FrameOfNopKeyAndReserved := by
  intro op len rsvd bits s t
  have turnedDown : Performed (.nop len rsvd bits) s (endError .errOp s) := .error .errOp nofun
  constructor
  · rintro (h | h | h | h | h)
    · exact (exec_performed h).frame_of_op_lt_three (.inl rfl)
    · exact (exec_performed h).frame_of_op_lt_three (.inr (.inl rfl))
    · exact (exec_performed h).frame_of_op_lt_three (.inr (.inr rfl))
    · cases h; exact turnedDown.frame_of_op_lt_three (.inl rfl)
    · cases h; exact turnedDown.frame_of_op_lt_three (.inl rfl)
  · rintro (h | h | h) <;> cases h <;> exact ⟨rfl, rfl, rfl⟩

/-! ### ENCBLK, CTRSEED and XORCHUNK (R82, R94, R95) -/

theorem keepsKeyAndSchedule_of_exec {i : Instr} {s t : State} (h : exec i s = .next t)
    (hi : opcode i = 0x3 ∨ opcode i = 0x4 ∨ opcode i = 0x5) :
    t.key = s.key ∧ t.sched = s.sched ∧ t.nri = s.nri ∧ t.keyValid = s.keyValid := by
  obtain ⟨hkv, hsched, hnri⟩ | ⟨hkey, -⟩ := (exec_performed h).schedule
  · exact ⟨(exec_performed h).key_eq, hsched, hnri, hkv⟩
  · exact absurd hi (by obtain hkey | hkey := hkey <;> rw [hkey] <;> decide)

/-- Settles O25: the offsets outside each range hold no register that the command may move. -/
theorem frameOfBlockAndStream : Obligations.FrameOfBlockAndStream := by
  intro len rsvd bits s t
  refine ⟨fun h off hne hout => ?_, fun h => ⟨?_, fun off hne hout => ?_⟩, fun h off hne hlo hhi hout => ?_, ?_⟩
  · exact busRead_of_exec (op := 0x3) h rfl (by revert off; decide)
  · cases h; rfl
  · exact busRead_of_exec (op := 0x4) h rfl (by revert off; decide)
  · exact busRead_of_exec (op := 0x5) h rfl (by revert off; decide)
  · rintro (h | h | h)
    · exact keepsKeyAndSchedule_of_exec h (.inl rfl)
    · exact keepsKeyAndSchedule_of_exec h (.inr (.inl rfl))
    · exact keepsKeyAndSchedule_of_exec h (.inr (.inr rfl))

end Sys2Proof.Machine
